-- ==== Sys2Proof/Word.lean ====
section
/-! DEFINITION. The two words of the hardware: a byte of a frame and an unsigned 16-bit field (00_scope.md R9 item 1). -/

namespace Sys2Proof

/-- A byte, 0..255 (R9 item 1). -/
abbrev Byte := BitVec 8

/-- An unsigned 16-bit quantity, 0..65535 (R9 item 1). -/
abbrev U16 := BitVec 16

end Sys2Proof
end

