-- ==== Sys2Proof/Config.lean ====
section
/-! DEFINITION. What is fixed for the block: the constants of 00_scope.md R6, the types of the transport contract (R8), and the
values the spec leaves open (R7), which have no body. -/

namespace Sys2Proof

/-- The transport's own error value `e` (R8): no rule inspects it. DESIGN CHOICE (log 14): it is told apart by a number. -/
structure TransportError where
  code : Nat
  deriving DecidableEq, Repr, Inhabited

/-- An answer of the transport: `Ok(a)` or `Err(e)` (R8). -/
inductive Answer (α : Type) where
  | err (e : TransportError)
  | ok (a : α)
  deriving DecidableEq, Repr, Inhabited

/-- One event of the trace: a transaction with the transport's answer (R9 item 9). -/
inductive Event where
  /-- `Open -> r` -/
  | tOpen (r : Answer Unit)
  /-- `Close` -/
  | tClose
  /-- `Write(bs) -> r` -/
  | tWrite (bs : List Byte) (r : Answer Nat)
  /-- `Read(n, t) -> r`, `t` in seconds -/
  | tRead (n timeout : Nat) (r : Answer (List Byte))
  deriving DecidableEq, Repr

namespace Config

/-! The constants of R6. -/

abbrev header : List Byte := [0x55, 0x00]
abbrev tail : List Byte := [0x00, 0xAA]
/-- Decided 8 (R6, 92_eei_decisions.md D5; log 10). -/
abbrev lenOverhead : Nat := 8
abbrev maxData : Nat := 250
abbrev insWrite : Int := 0x01
abbrev insRead : Int := 0x02
/-- The response marker 0x12: "never checked on receipt" (R6), so no definition of the machine reads it. -/
abbrev insReturn : Int := 0x12
abbrev rxHeadBytes : Nat := 3
abbrev rxMinLen : Nat := 5
/-- The timeout of each response read, in seconds (R6, R160; log 13). -/
abbrev rxTimeout : Nat := 1
abbrev servoIdMin : Int := 1
abbrev servoIdMax : Int := 18
abbrev angleMin : Int := 0
abbrev angleMax : Int := 180
abbrev speedMin : Int := 0
abbrev speedMax : Int := 65535
abbrev devMin : Int := 0
abbrev devMax : Int := 65535
abbrev adrTorqueOn : Int := 0x26
abbrev adrTorqueOff : Int := 0x27
abbrev adrCalibrate : Int := 0x28
abbrev adrServoMove : Int := 0x40
abbrev adrServoAngle : Int := 0x50
abbrev adrBattery : Int := 0x01
abbrev adrImuAngle : Int := 0x60
abbrev adrImuRaw : Int := 0x61
abbrev imuAngleLen : Nat := 7
abbrev imuRawLen : Nat := 18

/-! The open parameters of R7: free values, without a body. -/

/-- `short_write_is_error` (R7, R119, D14: "OPEN"; log 9). -/
opaque shortWriteIsError : Bool

/-- The transport oracle's answer to `T.open()` after a history of transactions (R7, R8, D22; log 2). -/
opaque oracleOpen : List Event → Answer Unit

/-- Whether an error happens inside `T.close()`, seen only by a diagnostic (R8, R102; log 2). -/
opaque oracleClose : List Event → Option TransportError

/-- The oracle's answer to `T.write(bs)`: its type holds the contract `0 <= k <= len(bs)` of R8 (log 2). -/
opaque oracleWrite : List Event → (bs : List Byte) → Answer (Fin (bs.length + 1))

/-- The oracle's answer to `T.read(n, t)`: its type holds the contract `0 <= len(bs) <= n` of R8 (log 2). -/
opaque oracleRead : List Event → (n timeout : Nat) → Answer { bs : List Byte // bs.length ≤ n }

end Config

end Sys2Proof
end

