-- ==== Sys2Proof/Machine/Flags.lean ====
section
/-! DEFINITION. The status an operation leaves. The block has no flags (10_state.md R17): the only status is the outcome, whose error
half is here: the kinds (60_exceptions.md R150) and the causes with their kind and message (R151). -/

namespace Sys2Proof.Machine

/-- The five error kinds (R150). -/
inductive ErrorKind where
  | rangeError
  | notOpenError
  | communicationError
  | protocolError
  | encodingError
  deriving DecidableEq, Repr

/-- The twenty causes of R151, in its order; each docstring gives the spec's cause id. -/
inductive Cause where
  /-- `E_EMPTY_PAYLOAD` -/
  | emptyPayload
  /-- `E_INS_RANGE` -/
  | insRange
  /-- `E_ADR_RANGE` -/
  | adrRange
  /-- `E_DATA_LONG` -/
  | dataLong
  /-- `E_LEN_OVERFLOW` -/
  | lenOverflow
  /-- `E_U16_RANGE` -/
  | u16Range
  /-- `E_U16_LEN` -/
  | u16Len
  /-- `E_DATA_BYTE` -/
  | dataByte
  /-- `E_SERVO_ID` -/
  | servoId
  /-- `E_NOT_OPEN` -/
  | notOpen
  /-- `E_T_OPEN` -/
  | tOpen
  /-- `E_T_WRITE` -/
  | tWrite
  /-- `E_SHORT_WRITE` -/
  | shortWrite
  /-- `E_T_READ` -/
  | tRead
  /-- `E_HDR_SHORT` -/
  | hdrShort
  /-- `E_HDR_BAD` -/
  | hdrBad
  /-- `E_LEN_BAD` -/
  | lenBad
  /-- `E_BODY_SHORT` -/
  | bodyShort
  /-- `E_TAIL_BAD` -/
  | tailBad
  /-- `E_PAYLOAD_LEN` -/
  | payloadLen
  deriving DecidableEq, Repr

/-- The kind column of R151. -/
def Cause.kind : Cause → ErrorKind
  | .emptyPayload => .rangeError
  | .insRange => .rangeError
  | .adrRange => .rangeError
  | .dataLong => .rangeError
  | .lenOverflow => .encodingError
  | .u16Range => .rangeError
  | .u16Len => .rangeError
  | .dataByte => .rangeError
  | .servoId => .rangeError
  | .notOpen => .notOpenError
  | .tOpen => .communicationError
  | .tWrite => .communicationError
  | .shortWrite => .communicationError
  | .tRead => .communicationError
  | .hdrShort => .communicationError
  | .hdrBad => .protocolError
  | .lenBad => .protocolError
  | .bodyShort => .communicationError
  | .tailBad => .protocolError
  | .payloadLen => .protocolError

/-- The message column of R151. Six texts are the source's (those of `hdrShort`, `hdrBad`, `lenBad`, `bodyShort`, `tailBad`,
`payloadLen`); the others are the spec's own, on which no claim should depend (R151, D20). -/
def Cause.message : Cause → String
  | .emptyPayload => "empty payload"
  | .insRange => "instruction out of range"
  | .adrRange => "address out of range"
  | .dataLong => "data too long"
  | .lenOverflow => "length does not fit LEN"
  | .u16Range => "value out of range"
  | .u16Len => "need exactly 2 bytes"
  | .dataByte => "data byte out of range"
  | .servoId => "servo id out of range"
  | .notOpen => "transport not open"
  | .tOpen => "transport open failed"
  | .tWrite => "transport write failed"
  | .shortWrite => "short write"
  | .tRead => "transport read failed"
  | .hdrShort => "incomplete header"
  | .hdrBad => "invalid header"
  | .lenBad => "invalid frame length"
  | .bodyShort => "incomplete frame"
  | .tailBad => "invalid tail"
  | .payloadLen => "unexpected payload length"

/-- An error value: "a pair (kind, message)" (R150). Nothing else is recorded (R152). -/
structure ErrorValue where
  kind : ErrorKind
  message : String
  deriving DecidableEq, Repr

/-- The error value of a cause; the model names an error by its cause (R151; log 15). -/
def Cause.error (c : Cause) : ErrorValue := { kind := c.kind, message := c.message }

/-- The causes found in the operands alone, before the session or the transport is looked at or used (items 1, 3 and 4 of R154, and
the operand errors of the codec, R80 to R83). -/
def Cause.ofOperands : Cause → Bool
  | .emptyPayload | .insRange | .adrRange | .dataLong | .lenOverflow | .u16Range | .u16Len | .dataByte | .servoId => true
  | .notOpen | .tOpen | .tWrite | .shortWrite | .tRead | .hdrShort | .hdrBad | .lenBad | .bodyShort | .tailBad | .payloadLen => false

end Sys2Proof.Machine
end

