-- ==== Sys2Proof/Machine/Operands.lean ====
section
/-! DEFINITION. Operand forms and the pure functions on bytes: ranges and clamps, the byte and 16-bit forms of DATA (30_encoding.md R61),
the checksum, the frame and its well-formedness (R51 to R60; 40_frame_codec.md R80 to R83), the field decoder (42_sensor_reader.md
R136). -/

namespace Sys2Proof.Machine

/-! ## Integers -/

/-- `lo <= v <= hi`. -/
def inRange (lo hi v : Int) : Bool := decide (lo ≤ v) && decide (v ≤ hi)

/-- An integer that is a byte (R9 item 1). -/
def isByte (v : Int) : Bool := inRange 0 255 v

/-- A legal servo id, 1..18 (R13, R114). -/
def servoIdLegal (v : Int) : Bool := inRange Config.servoIdMin Config.servoIdMax v

/-- `clamp(v, lo, hi)` (R9 item 3). -/
def clamp (v lo hi : Int) : Int := if v < lo then lo else if hi < v then hi else v

/-- The clamped angle (R118). -/
def clampAngle (v : Int) : Int := clamp v Config.angleMin Config.angleMax

/-- The clamped speed (R118). -/
def clampSpeed (v : Int) : Int := clamp v Config.speedMin Config.speedMax

/-- The clamped deviation (R118). -/
def clampDeviation (v : Int) : Int := clamp v Config.devMin Config.devMax

/-- An integer in 0..255 as a byte. -/
def toByte (v : Int) : Byte := BitVec.ofNat 8 v.toNat

/-- A byte as an integer. -/
def ofByte (b : Byte) : Int := (b.toNat : Int)

/-- `ValidateData(data)`: every element is a byte (R120). -/
def validateData (data : List Int) : Bool := data.all isByte

/-! ## Sequences -/

/-- `s[a:b]` (R9 item 4): empty when `b <= a`. -/
def slice {α : Type} (s : List α) (a b : Nat) : List α := (s.take b).drop a

/-- `s[i]` of a byte list; the block never reads past an end, so the value there is never used. -/
def byteAt (s : List Byte) (i : Nat) : Byte := s.getD i 0

/-- `sum(s)`, an unbounded integer sum (R9 item 4, R84). -/
def byteSum (s : List Byte) : Nat := (s.map BitVec.toNat).sum

/-! ## The Frame Codec -/

/-- The value of the checksum: `(255 - (sum mod 256)) mod 256` (R57, R80). -/
def checksumByte (payload : List Byte) : Byte := BitVec.ofNat 8 ((255 - byteSum payload % 256) % 256)

/-- `checksum(payload)` (R80). -/
def checksum (payload : List Byte) : Except Cause Byte :=
  match payload with
  | [] => .error .emptyPayload
  | _ :: _ => .ok (checksumByte payload)

/-- `buildFrame(instruction, address, data)`, its checks in the order of R81. -/
def buildFrame (instruction address : Int) (data : List Byte) : Except Cause (List Byte) :=
  if !isByte instruction then .error .insRange
  else if !isByte address then .error .adrRange
  else if Config.maxData < data.length then .error .dataLong
  else if 255 < data.length + Config.lenOverhead then .error .lenOverflow
  else
    let body := BitVec.ofNat 8 (data.length + Config.lenOverhead) :: toByte instruction :: toByte address :: data
    match checksum body with
    | .error c => .error c
    | .ok chk => .ok (Config.header ++ body ++ chk :: Config.tail)

/-- `packUint16BE(value)`: high byte first (R82, R33). -/
def packUint16BE (value : Int) : Except Cause (List Byte) :=
  if !inRange 0 65535 value then .error .u16Range
  else .ok [BitVec.ofNat 8 (value.toNat / 256), BitVec.ofNat 8 (value.toNat % 256)]

/-- `256 * hi + lo` (R83, R136). -/
def u16BE (hi lo : Byte) : U16 := BitVec.ofNat 16 (256 * hi.toNat + lo.toNat)

/-- `unpackUint16BE(bytes)` (R83). -/
def unpackUint16BE (bytes : List Byte) : Except Cause U16 :=
  match bytes with
  | [hi, lo] => .ok (u16BE hi lo)
  | _ => .error .u16Len

/-! ## Frames as byte sequences -/

/-- The predicate `WellFormed(f)` of R60. No operation evaluates it. -/
def frameWellFormed (f : List Byte) : Bool :=
  decide (8 ≤ f.length)
    && byteAt f 0 == 0x55 && byteAt f 1 == 0x00
    && (byteAt f 2).toNat == f.length
    && byteAt f (f.length - 2) == 0x00 && byteAt f (f.length - 1) == 0xAA
    && byteAt f (f.length - 3) == checksumByte (slice f 2 (f.length - 3))

/-- The bytes of the frame with these field values (R51), CHK included, for any byte `len` in the LEN position. -/
def frameBytes (len ins adr : Byte) (data : List Byte) : List Byte :=
  [0x55, 0x00, len, ins, adr] ++ data ++ [checksumByte (len :: ins :: adr :: data), 0x00, 0xAA]

/-- The payload of a received frame with LEN value `n`: the bytes at 5 .. n-4 (R110); empty when `n <= 8`. -/
def framePayload (f : List Byte) (n : Nat) : List Byte := slice f 5 (n - 3)

/-! ## The typed records and the field decoder -/

/-- `IMUAngleData` (R14, R137). -/
structure IMUAngleData where
  roll : U16
  pitch : U16
  yaw : U16
  temperature : Byte
  deriving DecidableEq, Repr

/-- `RawIMUData`, nine fields in their fixed order (R14, R137). -/
structure RawIMUData where
  accelX : U16
  accelY : U16
  accelZ : U16
  gyroX : U16
  gyroY : U16
  gyroZ : U16
  magX : U16
  magY : U16
  magZ : U16
  deriving DecidableEq, Repr

/-- The big-endian field of a payload at offset `k` (R136). -/
def fieldAt (p : List Byte) (k : Nat) : U16 := u16BE (byteAt p k) (byteAt p (k + 1))

/-- The fields of a 7-byte payload (R134, R136). -/
def decodeImuAngle (p : List Byte) : IMUAngleData :=
  { roll := fieldAt p 0, pitch := fieldAt p 2, yaw := fieldAt p 4, temperature := byteAt p 6 }

/-- The fields of an 18-byte payload (R135, R136). -/
def decodeRawImu (p : List Byte) : RawIMUData :=
  { accelX := fieldAt p 0, accelY := fieldAt p 2, accelZ := fieldAt p 4,
    gyroX := fieldAt p 6, gyroY := fieldAt p 8, gyroZ := fieldAt p 10,
    magX := fieldAt p 12, magY := fieldAt p 14, magZ := fieldAt p 16 }

end Sys2Proof.Machine
end

