-- ==== Sys2Proof/Syntax.lean ====
section
/-! DEFINITION. The instructions: one constructor per row of opcode_table.json. They are the 18 host operations of
30_encoding.md R67 with the operand ports of 10_state.md R13 as fields (R69), and the received format RESPONSE. -/

namespace Sys2Proof

/-- Scalars are unbounded integers (R13, D3). `data` of write and read is a list of integers; `data` of a direct buildFrame call,
`payload` and `bytes` are byte lists by type (R13, C10, U23, U24). -/
inductive Instr where
  | checksum (payload : List Byte)
  | buildFrame (instruction address : Int) (data : List Byte)
  | packUint16BE (value : Int)
  | unpackUint16BE (bytes : List Byte)
  /-- the row `open` -/
  | openSession
  /-- the row `close` -/
  | closeSession
  | write (address : Int) (data : List Int)
  | read (address : Int) (data : List Int)
  | torqueOn
  | torqueOff
  | servoMove (servoId angle speed : Int)
  | readServoAngle (servoId : Int)
  | calibrateServo (servoId deviation : Int)
  | readBatteryLevel
  | readRawImuAngle
  | readImuAngle
  | getImuAngle
  | getRawImuData
  /-- the row `RESPONSE`: a frame received from the transport (R63; log 5) -/
  | response
  deriving DecidableEq, Repr

end Sys2Proof
end

