-- ==== Sys2Proof/WellFormed.lean ====
section
/-! DEFINITION. Well-formed instructions: every operand within the legal range of 10_state.md R13, and data short enough for the LEN byte
(30_encoding.md R56, R59). An ill-formed instruction is still an operation the host may issue: it ends in the RangeError or
EncodingError its rule names. -/

namespace Sys2Proof

open Machine

/-- The longest DATA a frame can carry: 247 bytes (R36, R59). -/
def maxEncodable : Nat := 255 - Config.lenOverhead

/-- The checks, one per operand of R13; clamped operands (angle, speed, deviation) have none (R118). -/
def Instr.wellFormed : Instr → Bool
  | .checksum payload => !payload.isEmpty
  | .buildFrame instruction address data => isByte instruction && isByte address && decide (data.length ≤ maxEncodable)
  | .packUint16BE value => inRange 0 65535 value
  | .unpackUint16BE bytes => bytes.length == 2
  | .openSession => true
  | .closeSession => true
  | .write address data => isByte address && validateData data && decide (data.length ≤ maxEncodable)
  | .read address data => isByte address && validateData data && decide (data.length ≤ maxEncodable)
  | .torqueOn => true
  | .torqueOff => true
  | .servoMove servoId _ _ => servoIdLegal servoId
  | .readServoAngle servoId => servoIdLegal servoId
  | .calibrateServo servoId _ => servoIdLegal servoId
  | .readBatteryLevel => true
  | .readRawImuAngle => true
  | .readImuAngle => true
  | .getImuAngle => true
  | .getRawImuData => true
  | .response => true

end Sys2Proof
end

