-- ==== Sys2Proof/Decode.lean ====
section
/-! DEFINITION. From the bytes of a frame to the operation that sends it (30_encoding.md R51, R62, R70; opcode_table.json), and the
encoder back. The host's own choice of an operation has no encoding (R69): what is decoded here is the wire. Where several operations
send one frame, the decoder names the most particular of them (log 16). -/

namespace Sys2Proof

open Machine

/-- Why bytes are no frame that the block sends or receives. -/
inductive DecodeError where
  /-- fewer bytes than a pattern needs -/
  | tooShort
  /-- byte 0 is not 0x55 or byte 1 is not 0x00 (R52) -/
  | badHeader
  /-- a LEN byte below 8, which no built frame has (R59) -/
  | badLength
  /-- fewer bytes than the LEN byte says (R66) -/
  | truncated
  /-- the last two bytes are not 0x00 0xAA (R58) -/
  | badTail
  /-- CHK is not the checksum of LEN, INS, ADR, DATA (R57) -/
  | badChecksum
  deriving DecidableEq, Repr

/-- The operation that sends a write frame (INS 0x01) with this ADR and DATA: the layouts of R62, else the generic write. -/
def writeOperation (adr : Byte) (data : List Byte) : Instr :=
  match adr, data with
  | 0x26#8, [0x00#8] => .torqueOn
  | 0x27#8, [0x00#8] => .torqueOff
  | 0x28#8, [id, hi, lo] =>
      if servoIdLegal (ofByte id) then .calibrateServo (ofByte id) (u16BE hi lo).toNat
      else .write (ofByte adr) (data.map ofByte)
  | 0x40#8, [id, angle, hi, lo] =>
      if servoIdLegal (ofByte id) && inRange Config.angleMin Config.angleMax (ofByte angle) then
        .servoMove (ofByte id) (ofByte angle) (u16BE hi lo).toNat
      else .write (ofByte adr) (data.map ofByte)
  | _, _ => .write (ofByte adr) (data.map ofByte)

/-- The operation that sends a read frame (INS 0x02) with this ADR and DATA (R62). getImuAngle and getRawImuData send the frames of
readImuAngle and readRawImuAngle (R70, `same_wire_pattern_as`). -/
def readOperation (adr : Byte) (data : List Byte) : Instr :=
  match adr, data with
  | 0x50#8, [id] => if servoIdLegal (ofByte id) then .readServoAngle (ofByte id) else .read (ofByte adr) (data.map ofByte)
  | 0x01#8, [0x01#8] => .readBatteryLevel
  | 0x60#8, [0x07#8] => .readImuAngle
  | 0x61#8, [0x12#8] => .readRawImuAngle
  | _, _ => .read (ofByte adr) (data.map ofByte)

/-- The operation of a frame's INS, ADR and DATA: any other INS is reached only through buildFrame (R54, R65). -/
def operationOf (ins adr : Byte) (data : List Byte) : Instr :=
  match ins with
  | 0x01#8 => writeOperation adr data
  | 0x02#8 => readOperation adr data
  | _ => .buildFrame (ofByte ins) (ofByte adr) data

/-- Decode the transmitted frame at the front of `bytes`; the bytes after it are returned. The frame is delimited by its LEN byte (R66)
and must be one that the builder makes (R52, R53, R57, R58, R59). -/
def decode (bytes : List Byte) : Except DecodeError (Instr × List Byte) :=
  if bytes.length < 3 then .error .tooShort
  else if byteAt bytes 0 != 0x55 || byteAt bytes 1 != 0x00 then .error .badHeader
  else
    let n := (byteAt bytes 2).toNat
    if n < Config.lenOverhead then .error .badLength
    else if bytes.length < n then .error .truncated
    else
      let f := bytes.take n
      if byteAt f (n - 2) != 0x00 || byteAt f (n - 1) != 0xAA then .error .badTail
      else if byteAt f (n - 3) != checksumByte (slice f 2 (n - 3)) then .error .badChecksum
      else .ok (operationOf (byteAt f 3) (byteAt f 4) (framePayload f n), bytes.drop n)

/-- Decode a received frame by the pattern of the row RESPONSE: its two header bytes (R70). LEN and the tail are examined when the
response is executed, with errors of their own (R107, R109); INS, ADR and CHK never are (R111). -/
def decodeReceived (bytes : List Byte) : Except DecodeError Instr :=
  match bytes with
  | b0 :: b1 :: _ => if b0 != 0x55 || b1 != 0x00 then .error .badHeader else .ok .response
  | _ => .error .tooShort

/-- The `n` bytes of a pattern of opcode_table.json, which numbers byte 0 as the most significant (R70; log 17). -/
def wordBytes : Nat → Nat → List Byte
  | 0, _ => []
  | n + 1, w => BitVec.ofNat 8 (w / 256 ^ n) :: wordBytes n w

/-- The pattern's bytes and the zeros after it, up to the longest frame (255 bytes, R59). -/
def tableBytes (nbits w : Nat) : List Byte := wordBytes (nbits / 8) w ++ List.replicate (255 - nbits / 8) 0

/-! ## The encoder -/

/-- The frame with this INS, ADR and DATA (R51, R53). -/
def wireFrame (ins adr : Byte) (data : List Byte) : List Byte :=
  frameBytes (BitVec.ofNat 8 (data.length + Config.lenOverhead)) ins adr data

/-- DATA of the frame that a 40-bit pattern of the table stands for (log 17): the pattern says HEADER, LEN, INS and ADR, and the row the
rest (R62, R70). A fixed DATA byte is the row's, a servo id the least legal one, every other operand byte 0. -/
def patternData (len ins adr : Byte) : List Byte :=
  match len, ins, adr with
  | 0x0C#8, 0x01#8, 0x40#8 => [0x01, 0x00, 0x00, 0x00]
  | 0x0B#8, 0x01#8, 0x28#8 => [0x01, 0x00, 0x00]
  | 0x09#8, 0x02#8, 0x50#8 => [0x01]
  | 0x09#8, 0x02#8, 0x01#8 => [0x01]
  | 0x09#8, 0x02#8, 0x60#8 => [0x07]
  | 0x09#8, 0x02#8, 0x61#8 => [0x12]
  | n, _, _ => List.replicate (n.toNat - Config.lenOverhead) 0x00

/-- The frame that a pattern's first five bytes begin; LEN, CHK and TAIL follow from the others (R53, R57, R58). -/
def patternFrame (bytes : List Byte) : List Byte :=
  wireFrame (byteAt bytes 3) (byteAt bytes 4) (patternData (byteAt bytes 2) (byteAt bytes 3) (byteAt bytes 4))

/-- What the decoder reads from a word of the table (log 17). The row RESPONSE has a pattern of 16 bits, so a word shorter than 40 bits
is a received frame. The transmitted rows have patterns of 40 bits, which are the first five bytes of a frame: the decoder is given the
frame that they begin. A longer word is the frame itself. -/
def decodeTableWord (nbits w : Nat) : Option Instr :=
  let bytes := tableBytes nbits w
  if nbits < 40 then (decodeReceived bytes).toOption
  else if nbits < 64 then
    if byteAt bytes 0 != 0x55 || byteAt bytes 1 != 0x00 then none
    else (decode (patternFrame bytes)).toOption.map Prod.fst
  else (decode bytes).toOption.map Prod.fst

/-- The two bytes of a 16-bit operand in DATA, high byte first (R61). -/
def wordField (v : Int) : List Byte := [BitVec.ofNat 8 (v.toNat / 256), BitVec.ofNat 8 v.toNat]

/-- The frame of a well-formed operation (R62); buildFrame's is the frame it returns. Operations marked `"wire": false` send none, and
a RESPONSE is never sent by the block (R54). -/
def encode (i : Instr) : Option (List Byte) :=
  if !i.wellFormed then none
  else
    match i with
    | .checksum _ => none
    | .buildFrame instruction address data => some (wireFrame (toByte instruction) (toByte address) data)
    | .packUint16BE _ => none
    | .unpackUint16BE _ => none
    | .openSession => none
    | .closeSession => none
    | .write address data => some (wireFrame 0x01 (toByte address) (data.map toByte))
    | .read address data => some (wireFrame 0x02 (toByte address) (data.map toByte))
    | .torqueOn => some (wireFrame 0x01 0x26 [0x00])
    | .torqueOff => some (wireFrame 0x01 0x27 [0x00])
    | .servoMove servoId angle speed =>
        some (wireFrame 0x01 0x40 (toByte servoId :: toByte (clampAngle angle) :: wordField (clampSpeed speed)))
    | .readServoAngle servoId => some (wireFrame 0x02 0x50 [toByte servoId])
    | .calibrateServo servoId deviation => some (wireFrame 0x01 0x28 (toByte servoId :: wordField (clampDeviation deviation)))
    | .readBatteryLevel => some (wireFrame 0x02 0x01 [0x01])
    | .readRawImuAngle => some (wireFrame 0x02 0x61 [0x12])
    | .readImuAngle => some (wireFrame 0x02 0x60 [0x07])
    | .getImuAngle => some (wireFrame 0x02 0x60 [0x07])
    | .getRawImuData => some (wireFrame 0x02 0x61 [0x12])
    | .response => none

/-- The operation the decoder names for the frame of `i`: clamped operands are seen clamped, a typed read as its raw read, a generic
form as the named operation with the same frame (R70; log 16). -/
def Instr.onWire : Instr → Instr
  | .checksum payload => .checksum payload
  | .buildFrame instruction address data => operationOf (toByte instruction) (toByte address) data
  | .packUint16BE value => .packUint16BE value
  | .unpackUint16BE bytes => .unpackUint16BE bytes
  | .openSession => .openSession
  | .closeSession => .closeSession
  | .write address data => writeOperation (toByte address) (data.map toByte)
  | .read address data => readOperation (toByte address) (data.map toByte)
  | .torqueOn => .torqueOn
  | .torqueOff => .torqueOff
  | .servoMove servoId angle speed => .servoMove servoId (clampAngle angle) (clampSpeed speed)
  | .readServoAngle servoId => .readServoAngle servoId
  | .calibrateServo servoId deviation => .calibrateServo servoId (clampDeviation deviation)
  | .readBatteryLevel => .readBatteryLevel
  | .readRawImuAngle => .readRawImuAngle
  | .readImuAngle => .readImuAngle
  | .getImuAngle => .readImuAngle
  | .getRawImuData => .readRawImuAngle
  | .response => .response

end Sys2Proof
end

