-- ==== Sys2Proof/Machine/State.lean ====
section
/-! DEFINITION. The state record of one block instance (10_state.md R10, R22), the agents around it (00_scope.md R5), and the reasons a
step can stop. -/

namespace Sys2Proof.Machine

/-- The session register (R11). -/
inductive Session where
  | closed
  /-- `Open` -/
  | opened
  deriving DecidableEq, Repr

/-- The position of the response-protocol sequencer (R16). -/
inductive Phase where
  | idle
  | sendRequest
  | readHead
  | checkHead
  | readBody
  | checkTail
  | extract
  deriving DecidableEq, Repr

/-- The model's own (log 7): what the read in progress does with its payload, as its operation says (R104, R134, R135). -/
inductive PayloadForm where
  /-- returned undecoded -/
  | raw
  /-- decoded by getImuAngle -/
  | imuAngle
  /-- decoded by getRawImuData -/
  | rawImu
  deriving DecidableEq, Repr

/-- The value of `Ok(v)` on a result port (R14). -/
inductive Value where
  | unit
  | byte (b : Byte)
  | u16 (v : U16)
  | bytes (bs : List Byte)
  | imuAngle (r : IMUAngleData)
  | rawImu (r : RawIMUData)
  deriving DecidableEq, Repr

/-- The outcome of an operation: `Ok(v)` or `Err(kind, message)`, the error named by its cause (R9 item 7, R151). -/
inductive OpOutcome where
  | ok (v : Value)
  | err (c : Cause)
  deriving DecidableEq, Repr

/-- The clamped operands (R118). -/
inductive ClampedField where
  | angle
  | speed
  | deviation
  deriving DecidableEq, Repr

/-- Events of the diagnostics side channel (R20). -/
inductive Diagnostic where
  | clamped (field : ClampedField) (given used : Int)
  | closeError (e : TransportError)
  deriving DecidableEq, Repr

/-- No fault exists: an `Err` outcome is "not a fault of the machine" (60_exceptions.md R166) and every operation is defined. -/
inductive Fault where
  deriving DecidableEq, Repr

/-- Why a step has no next state (R166: "a model gives them no step (refusal)"). -/
inductive Refusal where
  /-- Raised only by an arm of `exec` that has no meaning yet; safe. -/
  | notModelled (mnemonic : String)
  /-- Raised by every host operation that is executed while another one is in progress (U19, R184); safe. -/
  | operationInProgress
  /-- Raised by a transaction whose scripted answer breaks the transport contract of R8 (U21, R166); safe. -/
  | transportContract
  deriving DecidableEq, Repr

/-- THE STATE RECORD OF THE BLOCK (R10, R22): the session register and the transient items of an operation in progress. As R22 asks, it
holds no constant, no timeout, no part of the transport and no list of operations. -/
structure Block where
  /-- the only register that persists between operations (R10, R11) -/
  session : Session
  /-- the sequencer's position, `idle` between operations (R16) -/
  phase : Phase
  /-- the outgoing frame, until T.write has answered (R15) -/
  txFrame : List Byte
  /-- the answer of the first response read (R16) -/
  rxHead : List Byte
  /-- the answer of the second response read (R16) -/
  rxBody : List Byte
  /-- `rx_head ‖ rx_body` once both are complete (R16) -/
  rxFrame : List Byte
  /-- what the read in progress does with its payload (the model's own, log 7) -/
  form : PayloadForm
  deriving DecidableEq, Repr

/-- THE TRANSPORT, outside the block (R8, R19): the oracle as plain data, a parameter of the block's step relation (R22). It holds the
answers still to come and the transactions it has already answered, on which later answers may depend (log 2). -/
structure Transport where
  /-- every transaction made with its answer, oldest first (R9 items 6 and 9; log 4) -/
  trace : List Event
  /-- the answers still to come to T.open (R8, R19; log 2) -/
  openAnswers : List (Answer Unit)
  /-- for each T.close still to come, the error that happens inside it, if any (R8, R102; log 2) -/
  closeAnswers : List (Option TransportError)
  /-- the answers still to come to T.write (R8, R19; log 2) -/
  writeAnswers : List (Answer Nat)
  /-- the answers still to come to T.read (R8, R19; log 2) -/
  readAnswers : List (Answer (List Byte))
  deriving DecidableEq, Repr

/-- WHAT THE BLOCK HAS PUT OUT, read by no rule (R10: outputs; R20). -/
structure Outputs where
  /-- the outcomes delivered so far, oldest first; the last is on the result port (R14, R197; log 4) -/
  outcomes : List OpOutcome
  /-- the diagnostics side channel, oldest first (R20; log 8) -/
  diagnostics : List Diagnostic
  deriving DecidableEq, Repr

/-- THE HOST, outside the block (R5): the program, which is no state of the block (R22). -/
structure HostSide where
  /-- the operations the host has still to issue, in order; the first one drives the operand ports (R13, R9 item 9; log 1) -/
  program : List Instr
  deriving DecidableEq, Repr

/-- The three agents of R5 side by side, as a closed system that `step` can run: the block's state record, its outputs, and beside the
block the transport and the host. R22 is about `Block`; `Block.operate` is the block's step relation over that record alone (log 18). -/
structure State extends Block, Transport, Outputs, HostSide
  deriving DecidableEq, Repr

/-- The state after reset (R23, R180). Operand ports and the transport's answers have no reset value in the spec: none is pending
(log 12). -/
def State.reset : State :=
  { session := .closed
    phase := .idle
    txFrame := []
    rxHead := []
    rxBody := []
    rxFrame := []
    form := .raw
    program := []
    outcomes := []
    trace := []
    diagnostics := []
    openAnswers := []
    closeAnswers := []
    writeAnswers := []
    readAnswers := [] }

end Sys2Proof.Machine
end

