-- ==== Sys2Proof/Machine/Ops.lean ====
section
/-! DEFINITION. The operations every meaning is built from: the four transport transactions (00_scope.md R8), delivering an outcome and
raising an error (R9 item 7, 60_exceptions.md R155), the session gate (R100), SendFrame (R119), and the sequencer of the response
protocol, one transition per phase (10_state.md R16, 41_command_driver.md R105 to R110). -/

namespace Sys2Proof.Machine

/-- The three outcomes of an intermediate result. -/
abbrev Result (α : Type) := Host.Outcome α Fault Refusal

/-- Go on with the result of `r`; a stop stays a stop. -/
def andThen {α β : Type} (r : Result α) (f : α → Result β) : Result β :=
  match r with
  | .next a => f a
  | .fault x => .fault x
  | .refused x => .refused x

/-! ## The end of an operation -/

/-- Drop the transient items of an operation (R10, R15, R16). -/
def State.discard (s : State) : State :=
  { s with phase := .idle, txFrame := [], rxHead := [], rxBody := [], rxFrame := [], form := .raw }

/-- End the operation with outcome `o`: the host receives it, the transient items are discarded. -/
def State.deliver (o : OpOutcome) (s : State) : State := { s.discard with outcomes := s.outcomes ++ [o] }

/-- `return v`: the host receives `Ok(v)` (R9 item 7). There is no other return: "no return-from-trap operation" (R157). -/
def State.succeed (v : Value) (s : State) : State := s.deliver (.ok v)

/-- `raise`: entry into an error (R155). The host receives the error and no value, `session` keeps its value, transactions already made
stay made, nothing is retried; there is no vector, no saved context and no mode change. -/
def State.raise (c : Cause) (s : State) : State := s.deliver (.err c)

/-- The state between two operations: no operation is in progress and no transient item is held (R10). -/
def State.atRest (s : State) : Bool :=
  s.phase == .idle && s.txFrame.isEmpty && s.rxHead.isEmpty && s.rxBody.isEmpty && s.rxFrame.isEmpty && s.form == .raw

/-- The result port: the outcome delivered last, if any (R14, R23). -/
def State.resultPort (s : State) : Option OpOutcome := s.outcomes.getLast?

/-- A host operation starts only while none is in progress; otherwise it has no step (R184, U19). -/
def hostOperation (body : State → Result State) (s : State) : Result State :=
  match s.phase with
  | .idle => body s
  | _ => .refused .operationInProgress

/-! ## Transactions -/

/-- The oracle's conforming answer to T.write as a plain count. -/
def plainCount {n : Nat} : Answer (Fin n) → Answer Nat
  | .ok k => .ok k.val
  | .err e => .err e

/-- The oracle's conforming answer to T.read as plain bytes. -/
def plainBytes {n : Nat} : Answer { bs : List Byte // bs.length ≤ n } → Answer (List Byte)
  | .ok bs => .ok bs.val
  | .err e => .err e

/-- What the transport answers to `T.open()` now. -/
def State.answerOpen (s : State) : Answer Unit :=
  match s.openAnswers with
  | a :: _ => a
  | [] => Config.oracleOpen s.trace

/-- The error inside `T.close()` now, if any. -/
def State.answerClose (s : State) : Option TransportError :=
  match s.closeAnswers with
  | a :: _ => a
  | [] => Config.oracleClose s.trace

/-- What the transport answers to `T.write(bs)` now. -/
def State.answerWrite (bs : List Byte) (s : State) : Answer Nat :=
  match s.writeAnswers with
  | a :: _ => a
  | [] => plainCount (Config.oracleWrite s.trace bs)

/-- What the transport answers to `T.read(n, t)` now. -/
def State.answerRead (n timeout : Nat) (s : State) : Answer (List Byte) :=
  match s.readAnswers with
  | a :: _ => a
  | [] => plainBytes (Config.oracleRead s.trace n timeout)

/-- The contract of T.write: `Ok(k)` with `0 <= k <= len(bs)`, or `Err(e)` (R8). -/
def writeContract (bs : List Byte) : Answer Nat → Bool
  | .ok k => decide (k ≤ bs.length)
  | .err _ => true

/-- The contract of T.read: `Ok(bs)` with `0 <= len(bs) <= n`, or `Err(e)` (R8). -/
def readContract (n : Nat) : Answer (List Byte) → Bool
  | .ok bs => decide (bs.length ≤ n)
  | .err _ => true

/-- After `T.open()`: its answer is used up and the event is on the trace (R9 item 6). -/
def State.afterOpen (s : State) : State :=
  { s with openAnswers := s.openAnswers.tail, trace := s.trace ++ [.tOpen s.answerOpen] }

/-- The transaction `T.open()`. -/
def tOpen (s : State) : Answer Unit × State := (s.answerOpen, s.afterOpen)

/-- The diagnostic of an error inside T.close (R102, R156; log 8). -/
def closeDiagnostic : Option TransportError → List Diagnostic
  | some e => [.closeError e]
  | none => []

/-- After `T.close()`: it returns nothing, and an error inside it leaves only a diagnostic (R8, R102, R156). -/
def State.afterClose (s : State) : State :=
  { s with
    closeAnswers := s.closeAnswers.tail
    trace := s.trace ++ [.tClose]
    diagnostics := s.diagnostics ++ closeDiagnostic s.answerClose }

/-- The transaction `T.close()`. -/
def tClose (s : State) : State := s.afterClose

/-- After `T.write(bs)` (R9 item 6). -/
def State.afterWrite (bs : List Byte) (s : State) : State :=
  { s with writeAnswers := s.writeAnswers.tail, trace := s.trace ++ [.tWrite bs (s.answerWrite bs)] }

/-- The transaction `T.write(bs)` (R8, R37); an answer outside its contract is no step (U21, log 3). -/
def tWrite (bs : List Byte) (s : State) : Result (Answer Nat × State) :=
  if writeContract bs (s.answerWrite bs) then .next (s.answerWrite bs, s.afterWrite bs) else .refused .transportContract

/-- After `T.read(n, t)` (R9 item 6). -/
def State.afterRead (n timeout : Nat) (s : State) : State :=
  { s with readAnswers := s.readAnswers.tail, trace := s.trace ++ [.tRead n timeout (s.answerRead n timeout)] }

/-- The transaction `T.read(n, t)` (R8, R37); an answer outside its contract is no step (U21, log 3). -/
def tRead (n timeout : Nat) (s : State) : Result (Answer (List Byte) × State) :=
  if readContract n (s.answerRead n timeout) then .next (s.answerRead n timeout, s.afterRead n timeout)
  else .refused .transportContract

/-! ## Requests -/

/-- The checks of write and read before anything is sent, in the order of R103, R104 and R154 items 2 to 4: the session gate
`RequireOpen` (R100), `ValidateData` (R120), the builder (R81). -/
def requestFrame (ins address : Int) (data : List Int) (s : State) : Except Cause (List Byte) :=
  match s.session with
  | .closed => .error .notOpen
  | .opened => if validateData data then buildFrame ins address (data.map toByte) else .error .dataByte

/-- How `SendFrame` maps the answer to a write of `len` bytes (R119); no cause means that it succeeds. -/
def sendCause (len : Nat) : Answer Nat → Option Cause
  | .err _ => some .tWrite
  | .ok k => if decide (k < len) && Config.shortWriteIsError then some .shortWrite else none

/-- `SendFrame(tx_frame)`: exactly one T.write with the whole frame, which is discarded once it has answered (R15, R37, R119). -/
def sendFrame (s : State) : Result (Option Cause × State) :=
  andThen (tWrite s.txFrame s) fun (a, s') => .next (sendCause s.txFrame.length a, { s' with txFrame := [] })

/-- `write(address, data)` (R103): no response is read. -/
def writeCommand (address : Int) (data : List Int) (s : State) : Result State :=
  match requestFrame Config.insWrite address data s with
  | .error c => .next (s.raise c)
  | .ok f =>
    andThen (sendFrame { s.discard with txFrame := f }) fun (c, s') =>
      match c with
      | some c => .next (s'.raise c)
      | none => .next (s'.succeed .unit)

/-! ## The sequencer of the response protocol -/

/-- `N`, the LEN byte held in rx_head (R107). -/
def State.rxLen (s : State) : Nat := (byteAt s.rxHead 2).toNat

/-- SendRequest: left by T.write answering (R16, R119). -/
def phaseSendRequest (s : State) : Result State :=
  andThen (sendFrame s) fun (c, s') =>
    match c with
    | some c => .next (s'.raise c)
    | none => .next { s' with phase := .readHead }

/-- ReadHead, step 1: one read of 3 bytes (R105). -/
def phaseReadHead (s : State) : Result State :=
  andThen (tRead Config.rxHeadBytes Config.rxTimeout s) fun (a, s') =>
    match a with
    | .err _ => .next (s'.raise .tRead)
    | .ok h =>
      if h.length < Config.rxHeadBytes then .next (s'.raise .hdrShort)
      else .next { s' with rxHead := h, phase := .checkHead }

/-- CheckHead, steps 2 and 3: the header (R106), then the lower bound of LEN (R107). -/
def phaseCheckHead (s : State) : Result State :=
  if byteAt s.rxHead 0 != 0x55 || byteAt s.rxHead 1 != 0x00 then .next (s.raise .hdrBad)
  else if s.rxLen < Config.rxMinLen then .next (s.raise .lenBad)
  else .next { s with phase := .readBody }

/-- ReadBody, step 4: one read of `N - 3` bytes with a fresh timeout (R108). -/
def phaseReadBody (s : State) : Result State :=
  andThen (tRead (s.rxLen - Config.rxHeadBytes) Config.rxTimeout s) fun (a, s') =>
    match a with
    | .err _ => .next (s'.raise .tRead)
    | .ok b =>
      if b.length < s.rxLen - Config.rxHeadBytes then .next (s'.raise .bodyShort)
      else .next { s' with rxBody := b, rxFrame := s'.rxHead ++ b, phase := .checkTail }

/-- CheckTail, step 5: the last two of the `N` bytes (R109). -/
def phaseCheckTail (s : State) : Result State :=
  if byteAt s.rxFrame (s.rxLen - 2) != 0x00 || byteAt s.rxFrame (s.rxLen - 1) != 0xAA then .next (s.raise .tailBad)
  else .next { s with phase := .extract }

/-- What the operation makes of its payload (R104; R134, R135 for the typed reads). -/
def payloadOutcome (form : PayloadForm) (p : List Byte) : OpOutcome :=
  match form with
  | .raw => .ok (.bytes p)
  | .imuAngle => if p.length == Config.imuAngleLen then .ok (.imuAngle (decodeImuAngle p)) else .err .payloadLen
  | .rawImu => if p.length == Config.imuRawLen then .ok (.rawImu (decodeRawImu p)) else .err .payloadLen

/-- Extract, step 6: the payload (R110), then the operation's typed decode; the operation ends. CHK, INS and ADR are not looked at
(R111). -/
def phaseExtract (s : State) : Result State :=
  .next (s.deliver (payloadOutcome s.form (framePayload s.rxFrame s.rxLen)))

/-- One transition of the sequencer (R16). -/
def advance (s : State) : Result State :=
  match s.phase with
  | .idle => .next s
  | .sendRequest => phaseSendRequest s
  | .readHead => phaseReadHead s
  | .checkHead => phaseCheckHead s
  | .readBody => phaseReadBody s
  | .checkTail => phaseCheckTail s
  | .extract => phaseExtract s

/-- Up to `k` transitions. -/
def advances : Nat → State → Result State
  | 0, s => .next s
  | k + 1, s => andThen (advance s) (advances k)

/-- Run the sequencer to the end of the operation: there are six phases but Idle, and no backward edge (R16). -/
def runSequencer (s : State) : Result State := advances 6 s

/-- `read(address, data)` (R104), its payload used as `form` says. -/
def readCommand (form : PayloadForm) (address : Int) (data : List Int) (s : State) : Result State :=
  match requestFrame Config.insRead address data s with
  | .error c => .next (s.raise c)
  | .ok f => runSequencer { s.discard with txFrame := f, phase := .sendRequest, form := form }

/-! ## Diagnostics and the host's side -/

/-- The `Clamped` diagnostic, when the value used is not the one given (R20, R114, R116; log 8). -/
def State.noteClamp (field : ClampedField) (given used : Int) (s : State) : State :=
  if given == used then s else { s with diagnostics := s.diagnostics ++ [.clamped field given used] }

/-- The operation to execute next: the sequencer goes on while a read is in progress; at Idle the host issues its next operation; with
none to issue the block waits (R180; log 1, log 7). -/
def nextOperation (s : State) : Option (Instr × State) :=
  match s.phase with
  | .idle =>
    match s.program with
    | [] => none
    | i :: rest => some (i, { s with program := rest })
  | _ => some (.response, s)

/-- A frame waits on the receive side of the transport: the next reads take it as R105 and R108 ask for it (R19, R185). -/
def State.withReceived (bytes : List Byte) (s : State) : State :=
  let n := (byteAt bytes 2).toNat
  { s with
    readAnswers :=
      .ok (bytes.take 3) :: ((if n < Config.rxMinLen then [] else [.ok (slice bytes 3 n)]) ++ s.readAnswers) }

end Sys2Proof.Machine
end

