-- ==== Sys2Proof/Machine/Codec.lean ====
section
/-! DEFINITION. The four operations of the Frame Codec (40_frame_codec.md): pure, not gated by `session`, no transaction. -/

namespace Sys2Proof.Machine

/-- The end of a pure operation: its value or its error. -/
def finish {α : Type} (r : Except Cause α) (wrap : α → Value) (s : State) : State :=
  match r with
  | .ok v => s.succeed (wrap v)
  | .error c => s.raise c

/-- `checksum(payload)` (R80). -/
def execChecksum (payload : List Byte) (s : State) : Result State :=
  hostOperation (fun s => .next (finish (checksum payload) .byte s)) s

/-- `buildFrame(instruction, address, data)` (R81). -/
def execBuildFrame (instruction address : Int) (data : List Byte) (s : State) : Result State :=
  hostOperation (fun s => .next (finish (buildFrame instruction address data) .bytes s)) s

/-- `packUint16BE(value)` (R82). -/
def execPackUint16BE (value : Int) (s : State) : Result State :=
  hostOperation (fun s => .next (finish (packUint16BE value) .bytes s)) s

/-- `unpackUint16BE(bytes)` (R83). -/
def execUnpackUint16BE (bytes : List Byte) (s : State) : Result State :=
  hostOperation (fun s => .next (finish (unpackUint16BE bytes) .u16 s)) s

end Sys2Proof.Machine
end

