-- ==== Sys2Proof/Machine/Driver.lean ====
section
/-! DEFINITION. The operations of the Command Driver (41_command_driver.md) and the reception of a response on its own. -/

namespace Sys2Proof.Machine

/-- `open()` (R101): the transaction is made in every state; a failed one leaves `session` as it was (R12). -/
def execOpenSession (s : State) : Result State :=
  hostOperation (fun s =>
    match tOpen s with
    | (.ok _, s') => .next ({ s' with session := .opened }.succeed .unit)
    | (.err _, s') => .next (s'.raise .tOpen)) s

/-- `close()` (R102, R156): the transaction is made in every state, and it never fails. -/
def execCloseSession (s : State) : Result State :=
  hostOperation (fun s => .next ({ tClose s with session := .closed }.succeed .unit)) s

/-- `write(address, data)` (R103). -/
def execWrite (address : Int) (data : List Int) (s : State) : Result State :=
  hostOperation (writeCommand address data) s

/-- `read(address, data)` (R104). -/
def execRead (address : Int) (data : List Int) (s : State) : Result State :=
  hostOperation (readCommand .raw address data) s

/-- `torqueOn()` (R112). -/
def execTorqueOn (s : State) : Result State :=
  hostOperation (writeCommand Config.adrTorqueOn [0x00]) s

/-- `torqueOff()` (R113). -/
def execTorqueOff (s : State) : Result State :=
  hostOperation (writeCommand Config.adrTorqueOff [0x00]) s

/-- `servoMove(servoId, angle, speed)` (R114): the id check comes before the session gate (R100, R154). -/
def execServoMove (servoId angle speed : Int) (s : State) : Result State :=
  hostOperation (fun s =>
    if !servoIdLegal servoId then .next (s.raise .servoId)
    else
      let a := clampAngle angle
      let v := clampSpeed speed
      let s := (s.noteClamp .angle angle a).noteClamp .speed speed v
      match packUint16BE v with
      | .error c => .next (s.raise c)
      | .ok bs => writeCommand Config.adrServoMove (servoId :: a :: bs.map ofByte) s) s

/-- `readServoAngle(servoId)` (R115). -/
def execReadServoAngle (servoId : Int) (s : State) : Result State :=
  hostOperation (fun s =>
    if !servoIdLegal servoId then .next (s.raise .servoId)
    else readCommand .raw Config.adrServoAngle [servoId] s) s

/-- `calibrateServo(servoId, deviation)` (R116). -/
def execCalibrateServo (servoId deviation : Int) (s : State) : Result State :=
  hostOperation (fun s =>
    if !servoIdLegal servoId then .next (s.raise .servoId)
    else
      let d := clampDeviation deviation
      let s := s.noteClamp .deviation deviation d
      match packUint16BE d with
      | .error c => .next (s.raise c)
      | .ok bs => writeCommand Config.adrCalibrate (servoId :: bs.map ofByte) s) s

/-- `readBatteryLevel()` (R117, R133). -/
def execReadBatteryLevel (s : State) : Result State :=
  hostOperation (readCommand .raw Config.adrBattery [0x01]) s

/-- A received frame (the row RESPONSE: R63, R105 to R111): `ReceiveResponse()`. While a read is in progress it is the rest of that
read, from the phase it is in. Between operations it is the response protocol on its own, behind the session gate that every transfer
has (R100, R159); the host has no operation for that (log 5). -/
def execResponse (s : State) : Result State :=
  match s.phase with
  | .idle =>
    match s.session with
    | .closed => .next (s.raise .notOpen)
    | .opened => runSequencer { s.discard with phase := .readHead }
  | _ => runSequencer s

end Sys2Proof.Machine
end

