-- ==== Sys2Proof/Machine/Sensor.lean ====
section
/-! DEFINITION. The operations of the Sensor Reader (42_sensor_reader.md); readBatteryLevel is the Driver's (R133). All of them are the
one read of R104 (R130). -/

namespace Sys2Proof.Machine

/-- `readRawImuAngle()` (R131). -/
def execReadRawImuAngle (s : State) : Result State :=
  hostOperation (readCommand .raw Config.adrImuRaw [0x12]) s

/-- `readImuAngle()` (R132). -/
def execReadImuAngle (s : State) : Result State :=
  hostOperation (readCommand .raw Config.adrImuAngle [0x07]) s

/-- `getImuAngle()` (R134): readImuAngle, then the decode of exactly 7 payload bytes. -/
def execGetImuAngle (s : State) : Result State :=
  hostOperation (readCommand .imuAngle Config.adrImuAngle [0x07]) s

/-- `getRawImuData()` (R135): readRawImuAngle, then the decode of exactly 18 payload bytes. -/
def execGetRawImuData (s : State) : Result State :=
  hostOperation (readCommand .rawImu Config.adrImuRaw [0x12]) s

end Sys2Proof.Machine
end

