-- ==== Sys2Proof/Machine/Dispatch.lean ====
section
/-! DEFINITION. The meaning of every row of opcode_table.json, in the table's order. -/

namespace Sys2Proof.Machine

def exec (i : Instr) (s : State) : Host.Outcome State Fault Refusal :=
  match i with
  | .checksum payload => Sys2Proof.Machine.execChecksum payload s
  | .buildFrame instruction address data => Sys2Proof.Machine.execBuildFrame instruction address data s
  | .packUint16BE value => Sys2Proof.Machine.execPackUint16BE value s
  | .unpackUint16BE bytes => Sys2Proof.Machine.execUnpackUint16BE bytes s
  | .openSession => Sys2Proof.Machine.execOpenSession s
  | .closeSession => Sys2Proof.Machine.execCloseSession s
  | .write address data => Sys2Proof.Machine.execWrite address data s
  | .read address data => Sys2Proof.Machine.execRead address data s
  | .torqueOn => Sys2Proof.Machine.execTorqueOn s
  | .torqueOff => Sys2Proof.Machine.execTorqueOff s
  | .servoMove servoId angle speed => Sys2Proof.Machine.execServoMove servoId angle speed s
  | .readServoAngle servoId => Sys2Proof.Machine.execReadServoAngle servoId s
  | .calibrateServo servoId deviation => Sys2Proof.Machine.execCalibrateServo servoId deviation s
  | .readBatteryLevel => Sys2Proof.Machine.execReadBatteryLevel s
  | .readRawImuAngle => Sys2Proof.Machine.execReadRawImuAngle s
  | .readImuAngle => Sys2Proof.Machine.execReadImuAngle s
  | .getImuAngle => Sys2Proof.Machine.execGetImuAngle s
  | .getRawImuData => Sys2Proof.Machine.execGetRawImuData s
  | .response => Sys2Proof.Machine.execResponse s

end Sys2Proof.Machine
end

