-- ==== Sys2Proof/Machine/Step.lean ====
section
/-! DEFINITION. One step: one operation, from its issue to its outcome (00_scope.md R5), and how an instruction word is put where the
next step takes it from. -/

namespace Sys2Proof.Machine

/-- With nothing to do the block "waits for the first host operation" (R180): the step leaves the state as it is (DEDUCED, log 6). -/
def step (s : State) : Host.Outcome State Fault Refusal :=
  match nextOperation s with
  | none => .next s
  | some (i, s') => exec i s'

/-- The host issues the operation of the word next (log 1). The word of a received frame also puts its bytes on the receive side of the
transport, which is where a response is taken from (log 5, log 17). -/
def State.withFetchWord (s : State) (nbits w : Nat) : State :=
  match Sys2Proof.decodeTableWord nbits w with
  | none => s
  | some .response => { s.withReceived (Sys2Proof.tableBytes nbits w) with phase := .idle, program := .response :: s.program }
  | some i => { s with phase := .idle, program := i :: s.program }

end Sys2Proof.Machine
end

