-- ==== Sys2Proof/Machine/Block.lean ====
section
/-! DEFINITION. The step relation of the block over its own state record, with the transport as a parameter (10_state.md R22, R19). -/

namespace Sys2Proof.Machine

/-- The block beside a transport, with nothing put out yet and no program. -/
def Block.beside (b : Block) (T : Transport) : State :=
  { toBlock := b, toTransport := T, outcomes := [], diagnostics := [], program := [] }

/-- One operation of the block (R22; log 18): the transport is a parameter, the program is no argument at all, and the record that goes
from one operation to the next is `Block`. The transport comes back with the transactions it has answered. -/
def Block.operate (i : Instr) (T : Transport) (b : Block) : Result (Block × Transport × Outputs) :=
  andThen (exec i (b.beside T)) fun t => .next (t.toBlock, t.toTransport, t.toOutputs)

end Sys2Proof.Machine
end

