-- ==== Sys2Proof/Safety.lean ====
section
/-! DEFINITION. What a good run of the block is, in the terms the statements use: lawful transactions, the session a trace implies, the
shape of one operation's transactions, and the invariant between operations. -/

namespace Sys2Proof.Machine

/-- A lawful event of the trace: a written frame is well formed (30_encoding.md R60) with INS 0x01 or 0x02 (R54); a read asks for 3
bytes or for `N - 3` with `5 <= N <= 255`, with the 1-second timeout (R105, R108); every answer keeps the transport contract (R8). -/
def eventLawful : Event → Bool
  | .tOpen _ => true
  | .tClose => true
  | .tWrite bs a => frameWellFormed bs && (byteAt bs 3 == 0x01 || byteAt bs 3 == 0x02) && writeContract bs a
  | .tRead n timeout a => timeout == 1 && decide (2 ≤ n) && decide (n ≤ 252) && readContract n a

/-- The session after a list of transactions that starts in session `σ`, and nothing if a frame was written or a response read while
the session was closed (10_state.md R12). -/
def sessionAfter : Session → List Event → Option Session
  | σ, [] => some σ
  | _, .tOpen (.ok _) :: es => sessionAfter .opened es
  | σ, .tOpen (.err _) :: es => sessionAfter σ es
  | _, .tClose :: es => sessionAfter .closed es
  | .opened, .tWrite _ _ :: es => sessionAfter .opened es
  | .closed, .tWrite _ _ :: _ => none
  | .opened, .tRead _ _ _ :: es => sessionAfter .opened es
  | .closed, .tRead _ _ _ :: _ => none

/-- The invariant between two operations: nothing is in progress and no transient item is held (R10), every transaction made was lawful,
and `session` is what the lifecycle transactions of the trace made it (R12). -/
def State.Inv (s : State) : Prop :=
  s.atRest = true ∧ (∀ e ∈ s.trace, eventLawful e = true) ∧ sessionAfter .closed s.trace = some s.session

/-- The transactions one operation may make (70_reset_and_hazards.md R196, 20_memory.md R37, R39): none, one open, one close, or one write
followed by at most two reads, the first of 3 bytes. -/
def operationTransactions : List Event → Bool
  | [] => true
  | [.tOpen _] => true
  | [.tClose] => true
  | [.tWrite _ _] => true
  | [.tWrite _ _, .tRead 3 _ _] => true
  | [.tWrite _ _, .tRead 3 _ _, .tRead _ _ _] => true
  | _ => false

/-- The transactions of a response received on its own (log 5): at most the two reads. -/
def responseTransactions : List Event → Bool
  | [] => true
  | [.tRead 3 _ _] => true
  | [.tRead 3 _ _, .tRead _ _ _] => true
  | _ => false

/-- The outcome of an operation that writes frame `f` and expects no response (R119). -/
def writeOutcome (f : List Byte) : Answer Nat → OpOutcome
  | .err _ => .err .tWrite
  | .ok k => if k < f.length ∧ Config.shortWriteIsError = true then .err .shortWrite else .ok .unit

/-- The operations of the Driver and the Sensor that check no operand before the session gate (R100, R154). -/
def gatedFirst : Instr → Bool
  | .write _ _ | .read _ _ | .torqueOn | .torqueOff | .readBatteryLevel | .readRawImuAngle | .readImuAngle | .getImuAngle
  | .getRawImuData | .response => true
  | .checksum _ | .buildFrame _ _ _ | .packUint16BE _ | .unpackUint16BE _ | .openSession | .closeSession | .servoMove _ _ _
  | .readServoAngle _ | .calibrateServo _ _ => false

/-- The four operations of the Frame Codec. -/
def isCodec : Instr → Bool
  | .checksum _ | .buildFrame _ _ _ | .packUint16BE _ | .unpackUint16BE _ => true
  | .openSession | .closeSession | .write _ _ | .read _ _ | .torqueOn | .torqueOff | .servoMove _ _ _ | .readServoAngle _
  | .calibrateServo _ _ | .readBatteryLevel | .readRawImuAngle | .readImuAngle | .getImuAngle | .getRawImuData | .response => false

/-- The write-type operations (R14, R54). -/
def isWriteType : Instr → Bool
  | .write _ _ | .torqueOn | .torqueOff | .servoMove _ _ _ | .calibrateServo _ _ => true
  | .checksum _ | .buildFrame _ _ _ | .packUint16BE _ | .unpackUint16BE _ | .openSession | .closeSession | .read _ _
  | .readServoAngle _ | .readBatteryLevel | .readRawImuAngle | .readImuAngle | .getImuAngle | .getRawImuData | .response => false

/-- How a read-type operation uses its payload: raw, or one of the two typed decodes (R104, R134, R135); none for any other. -/
def readForm : Instr → Option PayloadForm
  | .read _ _ | .readServoAngle _ | .readBatteryLevel | .readRawImuAngle | .readImuAngle => some .raw
  | .getImuAngle => some .imuAngle
  | .getRawImuData => some .rawImu
  | .checksum _ | .buildFrame _ _ _ | .packUint16BE _ | .unpackUint16BE _ | .openSession | .closeSession | .write _ _
  | .torqueOn | .torqueOff | .servoMove _ _ _ | .calibrateServo _ _ | .response => none

/-- The phases in their order (R16). -/
def Phase.position : Phase → Nat
  | .idle => 0
  | .sendRequest => 1
  | .readHead => 2
  | .checkHead => 3
  | .readBody => 4
  | .checkTail => 5
  | .extract => 6

/-- At the start of the response protocol the transport answers the two reads with the header `55 00 n` and with the `n - 3` bytes
`b`, all of them (R105 to R108). -/
def State.receives (n : Byte) (b : List Byte) (s : State) : Prop :=
  s.answerRead 3 1 = .ok [0x55, 0x00, n] ∧ 5 ≤ n.toNat ∧
    (s.afterRead 3 1).answerRead (n.toNat - 3) 1 = .ok b ∧ b.length = n.toNat - 3

/-- After the two reads of a response with LEN byte `n` (R37). -/
def State.afterResponse (n : Byte) (s : State) : State := (s.afterRead 3 1).afterRead (n.toNat - 3) 1

/-! ## Answers outside the transport's contract (R8, R166, U21; log 3) -/

/-- The answer to the write of `f` has a count above the frame's length. -/
def State.writeBreach (f : List Byte) (s : State) : Prop := writeContract f (s.answerWrite f) = false

/-- A header with the LEN byte `n` passes its checks, and the answer to the second read is too long. -/
def State.bodyBreach (n : Nat) (s : State) : Prop := 5 ≤ n ∧ readContract (n - 3) (s.answerRead (n - 3) 1) = false

/-- From the first read on: its answer is too long, or the second one's is. -/
def State.headBreach (s : State) : Prop :=
  readContract 3 (s.answerRead 3 1) = false ∨
    ∃ n : Byte, s.answerRead 3 1 = .ok [0x55, 0x00, n] ∧ (s.afterRead 3 1).bodyBreach n.toNat

/-- From the write of the request `f` on; after a write that failed nothing is read. -/
def State.requestBreach (f : List Byte) (s : State) : Prop :=
  s.writeBreach f ∨ (sendCause f.length (s.answerWrite f) = none ∧ (s.afterWrite f).headBreach)

/-- The transport breaks its contract in an answer that `i` takes, from the phase that the block is in. -/
def contractBreach (i : Instr) (s : State) : Prop :=
  match s.phase with
  | .idle =>
    s.session = .opened ∧
      ((∃ f, encode i = some f ∧ isWriteType i = true ∧ s.writeBreach f) ∨
        (∃ f, encode i = some f ∧ (readForm i).isSome = true ∧ s.requestBreach f) ∨ (i = .response ∧ s.headBreach))
  | .sendRequest => i = .response ∧ s.requestBreach s.txFrame
  | .readHead => i = .response ∧ s.headBreach
  | .checkHead => i = .response ∧ byteAt s.rxHead 0 = 0x55 ∧ byteAt s.rxHead 1 = 0x00 ∧ s.bodyBreach s.rxLen
  | .readBody => i = .response ∧ readContract (s.rxLen - 3) (s.answerRead (s.rxLen - 3) 1) = false
  | .checkTail => False
  | .extract => False

end Sys2Proof.Machine
end

