-- ==== Sys2Proof/Certificates/Slice0/Obligations.lean ====
section
/-! DEFINITION. The statements for the provers, family by family. Each docstring names the rule or the decision of spec/ it rests on.
`t` is always a next state; `s.atRest` says that no operation is in progress (10_state.md R10). -/

open Sys2Proof Sys2Proof.Machine

/-! ## Frame Codec -/

/-- R80: the checksum of a non-empty payload, and the one error. -/
def Obligations.ChecksumReturnsComplementOfSum : Prop :=
  (∀ s : State, s.atRest = true →
    exec (.checksum []) s = .next { s with outcomes := s.outcomes ++ [.err .emptyPayload] }) ∧
  Cause.emptyPayload.kind = .rangeError ∧
  ∀ (s : State) (p : List Byte), s.atRest = true → p ≠ [] →
    ∃ b : Byte, exec (.checksum p) s = .next { s with outcomes := s.outcomes ++ [.ok (.byte b)] } ∧
      b.toNat = (255 - (p.map BitVec.toNat).sum % 256) % 256 ∧
      ((p.map BitVec.toNat).sum + b.toNat) % 256 = 255

/-- R81 with R87: the checks in their order, and otherwise the frame written out field by field. -/
def Obligations.BuildFrameReturnsFrameOrError : Prop :=
  (∀ (s : State) (ins adr : Int) (data : List Byte), s.atRest = true →
    exec (.buildFrame ins adr data) s = .next { s with outcomes := s.outcomes ++ [
      if ins < 0 ∨ 255 < ins then .err .insRange
      else if adr < 0 ∨ 255 < adr then .err .adrRange
      else if 250 < data.length then .err .dataLong
      else if 247 < data.length then .err .lenOverflow
      else .ok (.bytes
        ([0x55, 0x00, BitVec.ofNat 8 (data.length + 8), BitVec.ofInt 8 ins, BitVec.ofInt 8 adr] ++ data ++
          [BitVec.ofNat 8 (255 - (data.length + 8 + ins.toNat + adr.toNat + (data.map BitVec.toNat).sum) % 256), 0x00, 0xAA]))] }) ∧
  Cause.insRange.kind = .rangeError ∧ Cause.adrRange.kind = .rangeError ∧ Cause.dataLong.kind = .rangeError ∧
  Cause.lenOverflow.kind = .encodingError

/-- R82: the two bytes, high byte first, or the error. -/
def Obligations.PackReturnsHighByteFirst : Prop :=
  (∀ (s : State) (v : Int), s.atRest = true → (v < 0 ∨ 65535 < v) →
    exec (.packUint16BE v) s = .next { s with outcomes := s.outcomes ++ [.err .u16Range] }) ∧
  Cause.u16Range.kind = .rangeError ∧
  ∀ (s : State) (v : Nat), s.atRest = true → v ≤ 65535 →
    exec (.packUint16BE v) s = .next { s with
      outcomes := s.outcomes ++ [.ok (.bytes [BitVec.ofNat 8 (v >>> 8), BitVec.ofNat 8 (v &&& 0xFF)])] }

/-- R83: exactly two bytes give the unsigned value, every other length the error. -/
def Obligations.UnpackReturnsUnsignedValue : Prop :=
  (∀ (s : State) (bs : List Byte), s.atRest = true → bs.length ≠ 2 →
    exec (.unpackUint16BE bs) s = .next { s with outcomes := s.outcomes ++ [.err .u16Len] }) ∧
  Cause.u16Len.kind = .rangeError ∧
  ∀ (s : State) (b0 b1 : Byte), s.atRest = true →
    ∃ v : U16, exec (.unpackUint16BE [b0, b1]) s = .next { s with outcomes := s.outcomes ++ [.ok (.u16 v)] } ∧
      v.toNat = (b0.toNat <<< 8 ||| b1.toNat) ∧ v.toNat = 256 * b0.toNat + b1.toNat

/-- R86: pack and unpack undo each other, and neither raises on these domains. -/
def Obligations.PackAndUnpackAreInverse : Prop :=
  (∀ b : List Byte, b.length = 2 → ∃ v : U16, unpackUint16BE b = .ok v ∧ packUint16BE v.toNat = .ok b) ∧
  ∀ v : Nat, v ≤ 65535 → ∃ (b : List Byte) (w : U16), packUint16BE v = .ok b ∧ unpackUint16BE b = .ok w ∧ w.toNat = v

/-- R85, with R60: the round-trip law of checksum and buildFrame; every built frame is well formed. -/
def Obligations.BuiltFrameKeepsChecksumLaw : Prop :=
  ∀ (ins adr : Int) (data : List Byte), 0 ≤ ins → ins ≤ 255 → 0 ≤ adr → adr ≤ 255 → data.length ≤ 247 →
    ∃ f : List Byte, buildFrame ins adr data = .ok f ∧
      (byteAt f 2).toNat = f.length ∧ f.length = data.length + 8 ∧
      checksum (slice f 2 ((byteAt f 2).toNat - 3)) = .ok (byteAt f ((byteAt f 2).toNat - 3)) ∧
      frameWellFormed f = true

/-- R136 (derived): decoding is injective on payloads of the exact length. -/
def Obligations.FieldDecoderIsInjective : Prop :=
  (∀ p q : List Byte, p.length = 7 → q.length = 7 → decodeImuAngle p = decodeImuAngle q → p = q) ∧
  ∀ p q : List Byte, p.length = 18 → q.length = 18 → decodeRawImu p = decodeRawImu q → p = q

/-! ## The session -/

/-- R101 (decisions D15, D16): open makes the transaction in either session. -/
def Obligations.OpenFollowsTheTransport : Prop :=
  (∀ s : State, s.atRest = true → s.answerOpen = .ok () →
    exec .openSession s = .next { s.afterOpen with session := .opened, outcomes := s.outcomes ++ [.ok .unit] }) ∧
  (∀ (s : State) (e : TransportError), s.atRest = true → s.answerOpen = .err e →
    exec .openSession s = .next { s.afterOpen with outcomes := s.outcomes ++ [.err .tOpen] }) ∧
  ∀ s : State, s.afterOpen.session = s.session ∧ s.afterOpen.trace = s.trace ++ [.tOpen s.answerOpen]

/-- R102 and R156 (decision D17): close makes the transaction in either session and never fails; the only trace of an error inside it is
the diagnostic (log 8). -/
def Obligations.CloseAlwaysSucceeds : Prop :=
  ∀ s : State, s.atRest = true →
    exec .closeSession s = .next { s with
      session := .closed
      closeAnswers := s.closeAnswers.tail
      trace := s.trace ++ [.tClose]
      diagnostics := s.diagnostics ++ (match s.answerClose with | some e => [.closeError e] | none => [])
      outcomes := s.outcomes ++ [.ok .unit] }

/-- R12, its last rows: no operation but open and close writes `session`, and no error does. -/
def Obligations.OnlyOpenAndCloseWriteSession : Prop :=
  ∀ (i : Instr) (s t : State), exec i s = .next t →
    (i ≠ .openSession → i ≠ .closeSession → t.session = s.session) ∧
    (∀ c, s.atRest = true → t.outcomes = s.outcomes ++ [.err c] → t.session = s.session)

/-- R100 and R159 (decisions D10, D11): in a closed session a transfer that checks no operand first ends in NotOpenError, with no
transaction. That the row RESPONSE has the same gate between operations is the model's choice (log 5). -/
def Obligations.ClosedSessionGatesTransfers : Prop :=
  ∀ (i : Instr) (s : State), gatedFirst i = true → s.atRest = true → s.session = .closed →
    exec i s = .next { s with outcomes := s.outcomes ++ [.err .notOpen] }

/-- R154 items 1 and 2 (decision D10): the id check of the servo operations comes before the session gate. -/
def Obligations.ServoIdIsCheckedBeforeTheGate : Prop :=
  ∀ (s : State) (id a v : Int), s.atRest = true →
    ((id < 1 ∨ 18 < id) →
      (∀ i ∈ [Instr.servoMove id a v, .readServoAngle id, .calibrateServo id v],
        exec i s = .next { s with outcomes := s.outcomes ++ [.err .servoId] })) ∧
    (1 ≤ id → id ≤ 18 → s.session = .closed →
      (∀ i ∈ [Instr.servoMove id a v, .readServoAngle id, .calibrateServo id v],
        ∃ d, exec i s = .next { s with outcomes := s.outcomes ++ [.err .notOpen], diagnostics := s.diagnostics ++ d }))

/-- No transfer reaches the transport while the session is closed (R12, R159): only open and close make a transaction. -/
def Obligations.ClosedSessionMakesNoTransfer : Prop :=
  ∀ (i : Instr) (s t : State), s.phase = .idle → s.session = .closed → i ≠ .openSession → i ≠ .closeSession →
    exec i s = .next t →
    t.trace = s.trace ∧ t.session = .closed ∧ t.openAnswers = s.openAnswers ∧ t.closeAnswers = s.closeAnswers ∧
      t.writeAnswers = s.writeAnswers ∧ t.readAnswers = s.readAnswers

/-! ## Write-type operations -/

/-- R103: with legal operands, one frame with INS 0x01 is written and nothing is read; the outcome is the transport's (R119; log 9). -/
def Obligations.WriteSendsOneFrame : Prop :=
  ∀ (s : State) (adr : Byte) (data : List Byte), s.atRest = true → s.session = .opened → data.length ≤ 247 →
    ∀ f : List Byte, f = frameBytes (BitVec.ofNat 8 (data.length + 8)) 0x01 adr data →
    writeContract f (s.answerWrite f) = true →
    exec (.write adr.toNat (data.map fun b => (b.toNat : Int))) s =
      .next { s.afterWrite f with outcomes := s.outcomes ++ [writeOutcome f (s.answerWrite f)] }

/-- R119 (decisions D14, D15): what a frame-sending operation makes of the transport's answer, for both values of
`short_write_is_error`. -/
def Obligations.TransportAnswerDecidesTheWrite : Prop :=
  ∀ s : State, s.atRest = true → s.session = .opened →
    (∀ e, s.answerWrite [0x55, 0x00, 0x08, 0x01, 0x10, 0xE6, 0x00, 0xAA] = .err e →
      exec (.write 0x10 []) s = .next { s.afterWrite [0x55, 0x00, 0x08, 0x01, 0x10, 0xE6, 0x00, 0xAA] with
        outcomes := s.outcomes ++ [.err .tWrite] }) ∧
    (∀ k, k < 8 → s.answerWrite [0x55, 0x00, 0x08, 0x01, 0x10, 0xE6, 0x00, 0xAA] = .ok k →
      exec (.write 0x10 []) s = .next { s.afterWrite [0x55, 0x00, 0x08, 0x01, 0x10, 0xE6, 0x00, 0xAA] with
        outcomes := s.outcomes ++ [if Config.shortWriteIsError = true then .err .shortWrite else .ok .unit] }) ∧
    (s.answerWrite [0x55, 0x00, 0x08, 0x01, 0x10, 0xE6, 0x00, 0xAA] = .ok 8 →
      exec (.write 0x10 []) s = .next { s.afterWrite [0x55, 0x00, 0x08, 0x01, 0x10, 0xE6, 0x00, 0xAA] with
        outcomes := s.outcomes ++ [.ok .unit] })

/-- R120 with R81 (priority R154, decision D10): illegal operands of write and read, in the order element, address, too long,
unencodable; nothing is sent. -/
def Obligations.IllegalOperandsSendNothing : Prop :=
  ∀ (s : State) (address : Int) (data : List Int) (i : Instr), i = .write address data ∨ i = .read address data →
    s.atRest = true → s.session = .opened →
    ((∃ v ∈ data, v < 0 ∨ 255 < v) → exec i s = .next { s with outcomes := s.outcomes ++ [.err .dataByte] }) ∧
    ((∀ v ∈ data, 0 ≤ v ∧ v ≤ 255) → (address < 0 ∨ 255 < address) →
      exec i s = .next { s with outcomes := s.outcomes ++ [.err .adrRange] }) ∧
    ((∀ v ∈ data, 0 ≤ v ∧ v ≤ 255) → 0 ≤ address → address ≤ 255 → 250 < data.length →
      exec i s = .next { s with outcomes := s.outcomes ++ [.err .dataLong] }) ∧
    ((∀ v ∈ data, 0 ≤ v ∧ v ≤ 255) → 0 ≤ address → address ≤ 255 → 248 ≤ data.length → data.length ≤ 250 →
      exec i s = .next { s with outcomes := s.outcomes ++ [.err .lenOverflow] })

/-- R112, R113: the two operations are the writes that the rules name, with the two fixed frames; in a closed session NotOpenError; no
response is read. -/
def Obligations.TorqueOperationsSendTheirFrames : Prop :=
  ∀ (s : State) (i : Instr) (f : List Byte),
    (i, f) ∈ [(Instr.torqueOn, [0x55, 0x00, 0x09, 0x01, 0x26, 0x00, 0xCF, 0x00, 0xAA]),
      (Instr.torqueOff, [0x55, 0x00, 0x09, 0x01, 0x27, 0x00, 0xCE, 0x00, 0xAA])] →
    s.atRest = true →
    exec .torqueOn s = exec (.write 0x26 [0x00]) s ∧ exec .torqueOff s = exec (.write 0x27 [0x00]) s ∧
    (s.session = .closed → exec i s = .next { s with outcomes := s.outcomes ++ [.err .notOpen] }) ∧
    (s.session = .opened → writeContract f (s.answerWrite f) = true →
      exec i s = .next { s.afterWrite f with outcomes := s.outcomes ++ [writeOutcome f (s.answerWrite f)] })

/-- R114 with R118: the clamped angle and speed in the frame; a `Clamped` diagnostic for each operand that was changed (the emission is
the model's choice, log 8). -/
def Obligations.ServoMoveSendsClampedOperands : Prop :=
  ∀ (s : State) (id angle speed a v : Int) (f : List Byte), s.atRest = true → s.session = .opened → 1 ≤ id → id ≤ 18 →
    a = (if angle < 0 then 0 else if 180 < angle then 180 else angle) →
    v = (if speed < 0 then 0 else if 65535 < speed then 65535 else speed) →
    f = [0x55, 0x00, 0x0C, 0x01, 0x40, BitVec.ofInt 8 id, BitVec.ofInt 8 a, BitVec.ofInt 8 (v / 256), BitVec.ofInt 8 v,
      BitVec.ofInt 8 (255 - (0x4D + id + a + v / 256 + v % 256) % 256), 0x00, 0xAA] →
    writeContract f (s.answerWrite f) = true →
    exec (.servoMove id angle speed) s = .next { s.afterWrite f with
      outcomes := s.outcomes ++ [writeOutcome f (s.answerWrite f)]
      diagnostics := s.diagnostics ++ (if angle = a then [] else [.clamped .angle angle a]) ++
        (if speed = v then [] else [.clamped .speed speed v]) }

/-- R116 with R118: the clamped deviation in the frame; the diagnostic as in ServoMoveSendsClampedOperands (log 8). -/
def Obligations.CalibrateSendsClampedDeviation : Prop :=
  ∀ (s : State) (id deviation d : Int) (f : List Byte), s.atRest = true → s.session = .opened → 1 ≤ id → id ≤ 18 →
    d = (if deviation < 0 then 0 else if 65535 < deviation then 65535 else deviation) →
    f = [0x55, 0x00, 0x0B, 0x01, 0x28, BitVec.ofInt 8 id, BitVec.ofInt 8 (d / 256), BitVec.ofInt 8 d,
      BitVec.ofInt 8 (255 - (0x34 + id + d / 256 + d % 256) % 256), 0x00, 0xAA] →
    writeContract f (s.answerWrite f) = true →
    exec (.calibrateServo id deviation) s = .next { s.afterWrite f with
      outcomes := s.outcomes ++ [writeOutcome f (s.answerWrite f)]
      diagnostics := s.diagnostics ++ (if deviation = d then [] else [.clamped .deviation deviation d]) }

/-- R187 (derived from R103): a write-type operation takes nothing from the receive side and makes no read, so an answer of the device
stays for the next read. -/
def Obligations.WriteTypeOperationsNeverRead : Prop :=
  ∀ (i : Instr) (s t : State), isWriteType i = true → exec i s = .next t →
    t.readAnswers = s.readAnswers ∧
      ∃ es : List Event, t.trace = s.trace ++ es ∧ es.length ≤ 1 ∧ ∀ e ∈ es, ∃ f a, e = .tWrite f a ∧ byteAt f 3 = 0x01

/-! ## Read-type operations -/

/-- R104, R115, R117, R130 to R135: a read-type operation is its request, written first, and then the response protocol; when the
request fails nothing is read. A short count fails or not as the open parameter says (R119, decision D14; log 9). -/
def Obligations.ReadIsRequestThenResponse : Prop :=
  ∀ (s : State) (i : Instr) (form : PayloadForm) (f : List Byte),
    readForm i = some form → encode i = some f → s.atRest = true → s.session = .opened →
    (s.answerWrite f = .ok f.length →
      exec i s = exec .response { s.afterWrite f with phase := .readHead, form := form }) ∧
    (∀ k, k < f.length → s.answerWrite f = .ok k →
      exec i s = if Config.shortWriteIsError = true then
          .next { s.afterWrite f with outcomes := s.outcomes ++ [.err .shortWrite] }
        else exec .response { s.afterWrite f with phase := .readHead, form := form }) ∧
    (∀ e, s.answerWrite f = .err e →
      exec i s = .next { s.afterWrite f with outcomes := s.outcomes ++ [.err .tWrite] })

/-- R104 with R105 to R110 on a complete response: the generic read writes its request with INS 0x02 and returns the payload, the bytes
between INS, ADR and CHK, tail. -/
def Obligations.ReadReturnsThePayload : Prop :=
  ∀ (s : State) (adr n : Byte) (data mid f : List Byte), s.atRest = true → s.session = .opened → data.length ≤ 247 →
    f = frameBytes (BitVec.ofNat 8 (data.length + 8)) 0x02 adr data →
    s.answerWrite f = .ok f.length → (s.afterWrite f).receives n (mid ++ [0x00, 0xAA]) →
    exec (.read adr.toNat (data.map fun b => (b.toNat : Int))) s = .next { (s.afterWrite f).afterResponse n with
      outcomes := s.outcomes ++ [.ok (.bytes (mid.drop 2).dropLast)] }

/-- R115, R117, R131, R132: the raw reads are the reads that the rules name, after the id check of readServoAngle; on a complete
response each sends its request frame and returns the payload undecoded. The payload is R110's, which for LEN 5, 6, 7 is empty by
decision D18. -/
def Obligations.NamedReadsReturnRawPayload : Prop :=
  (∀ s : State, exec .readBatteryLevel s = exec (.read 0x01 [0x01]) s ∧ exec .readRawImuAngle s = exec (.read 0x61 [0x12]) s ∧
    exec .readImuAngle s = exec (.read 0x60 [0x07]) s) ∧
  (∀ (s : State) (id : Int), 1 ≤ id → id ≤ 18 → exec (.readServoAngle id) s = exec (.read 0x50 [id]) s) ∧
  (∀ (s : State) (id : Int), id < 1 ∨ 18 < id → s.atRest = true →
    exec (.readServoAngle id) s = .next { s with outcomes := s.outcomes ++ [.err .servoId] }) ∧
  Cause.servoId.kind = .rangeError ∧
  ∀ (s : State) (i : Instr) (f mid : List Byte) (n : Byte),
    (i, f) ∈ [(Instr.readBatteryLevel, [0x55, 0x00, 0x09, 0x02, 0x01, 0x01, 0xF2, 0x00, 0xAA]),
        (Instr.readRawImuAngle, [0x55, 0x00, 0x09, 0x02, 0x61, 0x12, 0x81, 0x00, 0xAA]),
        (Instr.readImuAngle, [0x55, 0x00, 0x09, 0x02, 0x60, 0x07, 0x8D, 0x00, 0xAA])] ∨
      (∃ id : Nat, 1 ≤ id ∧ id ≤ 18 ∧ i = .readServoAngle id ∧
        f = [0x55, 0x00, 0x09, 0x02, 0x50, BitVec.ofNat 8 id, BitVec.ofNat 8 (0xA4 - id), 0x00, 0xAA]) →
    s.atRest = true → s.session = .opened → s.answerWrite f = .ok 9 →
    (s.afterWrite f).receives n (mid ++ [0x00, 0xAA]) →
    exec i s = .next { (s.afterWrite f).afterResponse n with outcomes := s.outcomes ++ [.ok (.bytes (mid.drop 2).dropLast)] }

/-- R134 on a complete response: LEN 15 gives the four fields, any other LEN the error (5, 6, 7 with R110's decision D18), after the
whole response is consumed. -/
def Obligations.GetImuAngleDecodesSevenBytes : Prop :=
  ∀ (s : State) (f : List Byte), f = [0x55, 0x00, 0x09, 0x02, 0x60, 0x07, 0x8D, 0x00, 0xAA] →
    s.atRest = true → s.session = .opened → s.answerWrite f = .ok 9 →
    (∀ ins adr chk p0 p1 p2 p3 p4 p5 p6 : Byte,
      (s.afterWrite f).receives 0x0F [ins, adr, p0, p1, p2, p3, p4, p5, p6, chk, 0x00, 0xAA] →
      exec .getImuAngle s = .next { (s.afterWrite f).afterResponse 0x0F with
        outcomes := s.outcomes ++ [.ok (.imuAngle { roll := p0 ++ p1, pitch := p2 ++ p3, yaw := p4 ++ p5, temperature := p6 })] }) ∧
    (∀ (n : Byte) (mid : List Byte), n ≠ 0x0F → (s.afterWrite f).receives n (mid ++ [0x00, 0xAA]) →
      exec .getImuAngle s = .next { (s.afterWrite f).afterResponse n with outcomes := s.outcomes ++ [.err .payloadLen] })

/-- R135 on a complete response: LEN 26 gives the nine fields in their order, any other LEN the error (5, 6, 7 with R110's decision
D18). -/
def Obligations.GetRawImuDataDecodesEighteenBytes : Prop :=
  ∀ (s : State) (f : List Byte), f = [0x55, 0x00, 0x09, 0x02, 0x61, 0x12, 0x81, 0x00, 0xAA] →
    s.atRest = true → s.session = .opened → s.answerWrite f = .ok 9 →
    (∀ ins adr chk a0 a1 a2 a3 a4 a5 g0 g1 g2 g3 g4 g5 m0 m1 m2 m3 m4 m5 : Byte,
      (s.afterWrite f).receives 0x1A
        [ins, adr, a0, a1, a2, a3, a4, a5, g0, g1, g2, g3, g4, g5, m0, m1, m2, m3, m4, m5, chk, 0x00, 0xAA] →
      exec .getRawImuData s = .next { (s.afterWrite f).afterResponse 0x1A with
        outcomes := s.outcomes ++ [.ok (.rawImu {
          accelX := a0 ++ a1, accelY := a2 ++ a3, accelZ := a4 ++ a5,
          gyroX := g0 ++ g1, gyroY := g2 ++ g3, gyroZ := g4 ++ g5,
          magX := m0 ++ m1, magY := m2 ++ m3, magZ := m4 ++ m5 })] }) ∧
    (∀ (n : Byte) (mid : List Byte), n ≠ 0x1A → (s.afterWrite f).receives n (mid ++ [0x00, 0xAA]) →
      exec .getRawImuData s = .next { (s.afterWrite f).afterResponse n with outcomes := s.outcomes ++ [.err .payloadLen] })

/-- R134, R135 as they are worded: the typed read is the raw read followed by the length check and the decode; every error of the raw
read passes unchanged, nothing else differs, and the decode takes the fields big-endian at their offsets. -/
def Obligations.TypedReadsDecodeTheRawReads : Prop :=
  (∀ (s t : State) (o : OpOutcome), s.atRest = true → t.outcomes = s.outcomes ++ [o] →
    (exec .readImuAngle s = .next t →
      exec .getImuAngle s = .next { t with outcomes := s.outcomes ++ [
        match o with
        | .ok (.bytes p) => if p.length = 7 then .ok (.imuAngle (decodeImuAngle p)) else .err .payloadLen
        | o => o] }) ∧
    (exec .readRawImuAngle s = .next t →
      exec .getRawImuData s = .next { t with outcomes := s.outcomes ++ [
        match o with
        | .ok (.bytes p) => if p.length = 18 then .ok (.rawImu (decodeRawImu p)) else .err .payloadLen
        | o => o] })) ∧
  Cause.payloadLen.error = { kind := .protocolError, message := "unexpected payload length" } ∧
  (∀ p0 p1 p2 p3 p4 p5 p6 : Byte,
    let r := decodeImuAngle [p0, p1, p2, p3, p4, p5, p6]
    r.roll.toNat = 256 * p0.toNat + p1.toNat ∧ r.pitch.toNat = 256 * p2.toNat + p3.toNat ∧
      r.yaw.toNat = 256 * p4.toNat + p5.toNat ∧ r.temperature = p6) ∧
  ∀ a0 a1 a2 a3 a4 a5 g0 g1 g2 g3 g4 g5 m0 m1 m2 m3 m4 m5 : Byte,
    let r := decodeRawImu [a0, a1, a2, a3, a4, a5, g0, g1, g2, g3, g4, g5, m0, m1, m2, m3, m4, m5]
    r.accelX.toNat = 256 * a0.toNat + a1.toNat ∧ r.accelY.toNat = 256 * a2.toNat + a3.toNat ∧
      r.accelZ.toNat = 256 * a4.toNat + a5.toNat ∧ r.gyroX.toNat = 256 * g0.toNat + g1.toNat ∧
      r.gyroY.toNat = 256 * g2.toNat + g3.toNat ∧ r.gyroZ.toNat = 256 * g4.toNat + g5.toNat ∧
      r.magX.toNat = 256 * m0.toNat + m1.toNat ∧ r.magY.toNat = 256 * m2.toNat + m3.toNat ∧
      r.magZ.toNat = 256 * m4.toNat + m5.toNat

/-! ## The response protocol -/

/-- R105 (decision D13): step 1 makes one read of 3 bytes with the 1-second timeout and fails on an error and on 0, 1 or 2 bytes. -/
def Obligations.HeaderReadNeedsThreeBytes : Prop :=
  ∀ s : State, s.phase = .readHead →
    (∀ e, s.answerRead 3 1 = .err e →
      exec .response s = .next { (s.afterRead 3 1).discard with outcomes := s.outcomes ++ [.err .tRead] }) ∧
    (∀ h, s.answerRead 3 1 = .ok h → h.length < 3 →
      exec .response s = .next { (s.afterRead 3 1).discard with outcomes := s.outcomes ++ [.err .hdrShort] }) ∧
    (∀ h, s.answerRead 3 1 = .ok h → h.length = 3 →
      advance s = .next { s.afterRead 3 1 with rxHead := h, phase := .checkHead }) ∧
    Cause.hdrShort.error = { kind := .communicationError, message := "incomplete header" }

/-- R106: step 2 refuses a header whose byte 0 is not 0x55 or whose byte 1 is not 0x00; all three bytes are consumed. -/
def Obligations.HeaderIsChecked : Prop :=
  ∀ (s : State) (b0 b1 b2 : Byte), s.phase = .readHead → s.answerRead 3 1 = .ok [b0, b1, b2] →
    (b0 ≠ 0x55 ∨ b1 ≠ 0x00) →
    exec .response s = .next { (s.afterRead 3 1).discard with outcomes := s.outcomes ++ [.err .hdrBad] } ∧
      Cause.hdrBad.error = { kind := .protocolError, message := "invalid header" }

/-- R107: step 3 refuses a LEN byte of 0 to 4 and lets 5 to 255 pass. -/
def Obligations.ReceivedLengthIsAtLeastFive : Prop :=
  (∀ (s : State) (n : Byte), s.phase = .readHead → s.answerRead 3 1 = .ok [0x55, 0x00, n] → n.toNat < 5 →
    exec .response s = .next { (s.afterRead 3 1).discard with outcomes := s.outcomes ++ [.err .lenBad] }) ∧
  (∀ (s : State) (n : Byte), s.phase = .checkHead → s.rxHead = [0x55, 0x00, n] → 5 ≤ n.toNat →
    advance s = .next { s with phase := .readBody }) ∧
  Cause.lenBad.error = { kind := .protocolError, message := "invalid frame length" }

/-- R108 (decision D13): step 4 makes one read of `N - 3` bytes and fails on an error and on fewer bytes, which are lost. -/
def Obligations.BodyReadNeedsTheWholeFrame : Prop :=
  ∀ (s : State) (n : Byte), s.phase = .readHead → s.answerRead 3 1 = .ok [0x55, 0x00, n] → 5 ≤ n.toNat →
    (∀ e, (s.afterRead 3 1).answerRead (n.toNat - 3) 1 = .err e →
      exec .response s = .next { (s.afterResponse n).discard with outcomes := s.outcomes ++ [.err .tRead] }) ∧
    (∀ b, (s.afterRead 3 1).answerRead (n.toNat - 3) 1 = .ok b → b.length < n.toNat - 3 →
      exec .response s = .next { (s.afterResponse n).discard with outcomes := s.outcomes ++ [.err .bodyShort] }) ∧
    Cause.bodyShort.error = { kind := .communicationError, message := "incomplete frame" }

/-- R109: step 5 refuses a response whose last two bytes are not `00 AA`. -/
def Obligations.TailIsChecked : Prop :=
  ∀ (s : State) (n x y : Byte) (mid : List Byte), s.phase = .readHead → s.receives n (mid ++ [x, y]) →
    (x ≠ 0x00 ∨ y ≠ 0xAA) →
    exec .response s = .next { (s.afterResponse n).discard with outcomes := s.outcomes ++ [.err .tailBad] } ∧
      Cause.tailBad.error = { kind := .protocolError, message := "invalid tail" }

/-- R110 (decision D18 for LEN 5, 6, 7): step 6 strips INS, ADR in front and CHK behind what is left of the body; a payload of LEN 8 or
less is empty. A raw read returns it. -/
def Obligations.PayloadIsExtracted : Prop :=
  ∀ (s : State) (n : Byte) (mid : List Byte), s.phase = .readHead → s.receives n (mid ++ [0x00, 0xAA]) →
    exec .response s = .next { (s.afterResponse n).discard with
      outcomes := s.outcomes ++ [payloadOutcome s.form (mid.drop 2).dropLast] } ∧
    payloadOutcome .raw (mid.drop 2).dropLast = .ok (.bytes (mid.drop 2).dropLast) ∧
    (mid.drop 2).dropLast.length = n.toNat - 8

/-- R111: whatever the received INS, ADR and CHK are, the payload is returned (decisions D7, D8). -/
def Obligations.ReceivedInsAdrChkAreNotChecked : Prop :=
  ∀ (s : State) (n ins adr chk : Byte) (p : List Byte), s.phase = .readHead → s.form = .raw →
    s.receives n (ins :: adr :: p ++ [chk, 0x00, 0xAA]) →
    exec .response s = .next { (s.afterResponse n).discard with outcomes := s.outcomes ++ [.ok (.bytes p)] }

/-- A response on its own (the model's choice, log 5): between operations, in an open session, the row RESPONSE runs the protocol of
R105 to R110 from its first step and returns the raw payload (empty for LEN 5, 6, 7 by decision D18). -/
def Obligations.ResponseAtRestRunsTheProtocol : Prop :=
  ∀ s : State, s.atRest = true → s.session = .opened →
    exec .response s = exec .response { s with phase := .readHead } ∧
    ∀ (n : Byte) (mid : List Byte), s.receives n (mid ++ [0x00, 0xAA]) →
      exec .response s = .next { s.afterResponse n with outcomes := s.outcomes ++ [.ok (.bytes (mid.drop 2).dropLast)] }

/-- R16 (decision D24): one transition of the sequencer goes to the next phase or ends the operation; there is no backward edge and no
loop. -/
def Obligations.SequencerOnlyMovesForward : Prop :=
  (∀ s t : State, advance s = .next t → s.phase ≠ .idle →
    t.phase = .idle ∨ t.phase.position = s.phase.position + 1) ∧
  ∀ s t : State, runSequencer s = .next t → t.phase = .idle

/-! ## Every operation -/

/-- R9 item 7, R10, R14: every operation delivers exactly one outcome and ends with no transient item held. -/
def Obligations.EveryOperationDeliversOneOutcome : Prop :=
  ∀ (i : Instr) (s t : State), exec i s = .next t → t.atRest = true ∧ ∃ o, t.outcomes = s.outcomes ++ [o]

/-- R155 (decision D19), R157: what an error leaves: `session` as it was, nothing held, the transactions already made still on the trace,
no more than one operation may make, and the block ready for the next operation. -/
def Obligations.ErrorLeavesSessionAndIsFinal : Prop :=
  ∀ (i : Instr) (s t : State) (c : Cause), s.phase = .idle → exec i s = .next t → t.outcomes = s.outcomes ++ [.err c] →
    t.session = s.session ∧ t.atRest = true ∧ t.program = s.program ∧
      ∃ es, t.trace = s.trace ++ es ∧ (operationTransactions es || responseTransactions es) = true

/-- R196, R37, R39 items 2 and 4, R161: the transactions of one operation; a request precedes its response reads and nothing is
retried. -/
def Obligations.TransactionsOfOneOperation : Prop :=
  ∀ (i : Instr) (s t : State), s.phase = .idle → exec i s = .next t →
    ∃ es, t.trace = s.trace ++ es ∧
      (isCodec i = true → es = []) ∧
      (i = .response → responseTransactions es = true) ∧
      (i ≠ .response → operationTransactions es = true)

/-- What an operation leaves alone (R10, R13, R19, R20): the operations still to come, earlier outcomes, transactions and diagnostics,
and every answer it has not asked for; only servoMove, calibrateServo and close write a diagnostic. -/
def Obligations.OperationsOnlyAppend : Prop :=
  ∀ (i : Instr) (s t : State), exec i s = .next t →
    t.program = s.program ∧ s.outcomes <+: t.outcomes ∧ s.trace <+: t.trace ∧ s.diagnostics <+: t.diagnostics ∧
      t.openAnswers <:+ s.openAnswers ∧ t.closeAnswers <:+ s.closeAnswers ∧
      t.writeAnswers <:+ s.writeAnswers ∧ t.readAnswers <:+ s.readAnswers ∧
      (i ≠ .openSession → t.openAnswers = s.openAnswers) ∧ (i ≠ .closeSession → t.closeAnswers = s.closeAnswers) ∧
      ((∀ id a v, i ≠ .servoMove id a v) → (∀ id d, i ≠ .calibrateServo id d) → i ≠ .closeSession →
        t.diagnostics = s.diagnostics)

/-- R17, R20, R22 (derived): no rule reads the diagnostics, the earlier outcomes or the operations still to come. -/
def Obligations.OutcomeIgnoresDiagnosticsAndHistory : Prop :=
  ∀ (i : Instr) (s t : State), exec i s = .next t →
    ∃ (d : List Diagnostic) (o : OpOutcome),
      ∀ (ds : List Diagnostic) (os : List OpOutcome) (is : List Instr),
        exec i { s with diagnostics := ds, outcomes := os, program := is } =
          .next { t with diagnostics := ds ++ d, outcomes := os ++ [o], program := is }

/-- R22, R19, R10 (derived): the block's step relation `Block.operate` is over the block's state record alone, with the transport as a
parameter and without the host's program; whatever runs beside it, `exec` is that relation, its outputs appended to those before and the
program left to the host. How the record and what stands beside it are laid out is the model's choice (log 18). -/
def Obligations.BlockStepTakesTheTransportAsParameter : Prop :=
  ∀ (i : Instr) (s : State), exec i s =
    andThen (Block.operate i s.toTransport s.toBlock) fun (b, T, out) =>
      .next { toBlock := b
              toTransport := T
              outcomes := s.outcomes ++ out.outcomes
              diagnostics := s.diagnostics ++ out.diagnostics
              program := s.program }

/-- R13, R151 (derived): in an open session an operation ends in an operand error exactly when an operand is outside its legal range. -/
def Obligations.OperandErrorsAreTheIllFormedOnes : Prop :=
  ∀ (i : Instr) (s t : State), s.phase = .idle → s.session = .opened → exec i s = .next t →
    (i.wellFormed = false ↔ ∃ c : Cause, c.ofOperands = true ∧ t.outcomes = s.outcomes ++ [.err c])

/-- R184, U19 (log 3): an operation issued while another is in progress has no step. -/
def Obligations.OperationInProgressHasNoStep : Prop :=
  ∀ (i : Instr) (s : State), s.phase ≠ .idle → i ≠ .response → exec i s = .refused .operationInProgress

/-- R8, R166, U21 (log 3): an operation is refused as transportContract exactly when an answer that it takes is outside the transport's
contract, in whichever phase it starts and for the write and both reads; with every other answer, scripted or free, it has a next state.
The last four clauses say it in plain cases: a count above the frame's length, four bytes to the first read, more than `N - 3` to the
second, and no scripted answer at all. -/
def Obligations.ContractBreachHasNoStep : Prop :=
  (∀ (i : Instr) (s : State), exec i s = .refused .transportContract ↔ contractBreach i s) ∧
  (∀ (i : Instr) (s : State), ¬ contractBreach i s → (s.phase = .idle ∨ i = .response) → ∃ t, exec i s = .next t) ∧
  (∀ (s : State) (i : Instr) (f : List Byte) (k : Nat) (ks : List (Answer Nat)),
    encode i = some f → (isWriteType i = true ∨ (readForm i).isSome = true) → s.phase = .idle → s.session = .opened →
    s.writeAnswers = .ok k :: ks → f.length < k → exec i s = .refused .transportContract) ∧
  (∀ (s : State) (h : List Byte) (rs : List (Answer (List Byte))), s.phase = .readHead →
    s.readAnswers = .ok h :: rs → 3 < h.length → exec .response s = .refused .transportContract) ∧
  (∀ (s : State) (n : Byte) (b : List Byte) (rs : List (Answer (List Byte))), s.phase = .readHead →
    s.readAnswers = .ok [0x55, 0x00, n] :: .ok b :: rs → 5 ≤ n.toNat → n.toNat - 3 < b.length →
    exec .response s = .refused .transportContract) ∧
  ∀ (i : Instr) (s : State), s.phase = .idle → s.writeAnswers = [] → s.readAnswers = [] → ∃ t, exec i s = .next t

/-- R150, R151: the kind of every cause, and the six message texts of the source. -/
def Obligations.CausesHaveTheirKindAndMessage : Prop :=
  (∀ c : Cause, c.kind = .rangeError ↔
    c ∈ [Cause.emptyPayload, .insRange, .adrRange, .dataLong, .u16Range, .u16Len, .dataByte, .servoId]) ∧
  (∀ c : Cause, c.kind = .notOpenError ↔ c = .notOpen) ∧
  (∀ c : Cause, c.kind = .encodingError ↔ c = .lenOverflow) ∧
  (∀ c : Cause, c.kind = .communicationError ↔ c ∈ [Cause.tOpen, .tWrite, .shortWrite, .tRead, .hdrShort, .bodyShort]) ∧
  (∀ c : Cause, c.kind = .protocolError ↔ c ∈ [Cause.hdrBad, .lenBad, .tailBad, .payloadLen]) ∧
  [Cause.hdrShort, .hdrBad, .lenBad, .bodyShort, .tailBad, .payloadLen].map Cause.message =
    ["incomplete header", "invalid header", "invalid frame length", "incomplete frame", "invalid tail", "unexpected payload length"]

/-! ## Encoding -/

/-- Frames written out from R51 and R62 (as in 95_test_vectors.md) decode to the operations that send them. R70 says that the table's
patterns are no injective decode: that a frame decodes to the most particular operation, and that a LEN byte below 8 is refused, is the
model's choice (log 16), and so is how a word of the table is read (log 17). -/
def Obligations.WrittenOutFramesDecode : Prop :=
  decode [0x55, 0x00, 0x09, 0x01, 0x26, 0x00, 0xCF, 0x00, 0xAA] = .ok (.torqueOn, []) ∧
  decode [0x55, 0x00, 0x0C, 0x01, 0x40, 0x05, 0x5A, 0x01, 0x90, 0xC2, 0x00, 0xAA] = .ok (.servoMove 5 90 400, []) ∧
  decode [0x55, 0x00, 0x0B, 0x01, 0x28, 0x03, 0x12, 0x34, 0x82, 0x00, 0xAA] = .ok (.calibrateServo 3 0x1234, []) ∧
  decode [0x55, 0x00, 0x0B, 0x01, 0x10, 0x01, 0x02, 0x03, 0xDD, 0x00, 0xAA] = .ok (.write 0x10 [1, 2, 3], []) ∧
  decode [0x55, 0x00, 0x09, 0x02, 0x61, 0x12, 0x81, 0x00, 0xAA] = .ok (.readRawImuAngle, []) ∧
  decode [0x55, 0x00, 0x05, 0x01, 0x26, 0x00, 0xD3, 0x00, 0xAA] = .error .badLength ∧
  decodeTableWord 16 0x5500 = some .response

/-- Decode and encode agree (R51, R62, R70): the frame of a well-formed operation, with any bytes after it, decodes to that operation as
the wire shows it, which is the model's choice among the operations with that frame (log 16). -/
def Obligations.DecodeOfEncodeIsTheOperation : Prop :=
  ∀ (i : Instr) (f rest : List Byte), encode i = some f → decode (f ++ rest) = .ok (i.onWire, rest)

/-- The other direction (R51, R60, R66): whatever decodes is a well-formed operation whose frame stands at the front. Which bytes decode,
and to what, is the model's choice (log 16). -/
def Obligations.DecodedBytesAreTheEncoding : Prop :=
  ∀ (bs rest : List Byte) (i : Instr), decode bs = .ok (i, rest) →
    i.wellFormed = true ∧ i.onWire = i ∧ ∃ f, encode i = some f ∧ bs = f ++ rest ∧ frameWellFormed f = true

/-- The frames the machine sends are the encoder's (R62, R70): every operation with a frame writes exactly that frame first, and
buildFrame returns it. -/
def Obligations.SentFramesAreTheEncodings : Prop :=
  ∀ (i : Instr) (s t : State) (f : List Byte), encode i = some f → s.phase = .idle → s.session = .opened → exec i s = .next t →
    ((∃ ins adr data, i = .buildFrame ins adr data) → t.outcomes = s.outcomes ++ [.ok (.bytes f)]) ∧
    ((∀ ins adr data, i ≠ .buildFrame ins adr data) →
      ∃ es, t.trace = s.trace ++ .tWrite f (s.answerWrite f) :: es)

/-! ## The machine -/

/-- R180, R23 (decision D9): the reset state; reset has made no transaction, and the block waits for the first operation. -/
def Obligations.ResetIsClosedAndIdle : Prop :=
  State.reset.session = .closed ∧ State.reset.phase = .idle ∧ State.reset.txFrame = [] ∧ State.reset.rxHead = [] ∧
    State.reset.rxBody = [] ∧ State.reset.rxFrame = [] ∧ State.reset.diagnostics = [] ∧ State.reset.trace = [] ∧
    State.reset.resultPort = none ∧ step State.reset = .next State.reset

/-- The invariant between operations holds at reset. -/
def Obligations.ResetMeetsTheInvariant : Prop := State.reset.Inv

/-- Every step keeps the invariant between operations: nothing in progress (R10), only well-formed frames and lawful transactions
(R54, R60, R105, R108), no transfer in a closed session, and `session` as the lifecycle transactions made it (R12). -/
def Obligations.StepKeepsTheInvariant : Prop :=
  ∀ s t : State, s.Inv → step s = .next t → t.Inv

/-- The step runs the operation the host issued (R5, R39; log 1): with none it waits (R180), and a read in progress goes on. -/
def Obligations.StepRunsTheIssuedOperation : Prop :=
  (∀ (s : State) (i : Instr) (is : List Instr), s.phase = .idle → s.program = i :: is →
    step s = exec i { s with program := is }) ∧
  (∀ s : State, s.phase = .idle → s.program = [] → step s = .next s) ∧
  ∀ s : State, s.phase ≠ .idle → step s = exec .response s

/-- The step runs the instruction a word decodes to (log 1, log 17); the word of a received frame is taken from the receive side. -/
def Obligations.StepRunsTheDecodedWord : Prop :=
  ∀ (s : State) (nbits w : Nat) (i : Instr), decodeTableWord nbits w = some i →
    (i ≠ .response → step (s.withFetchWord nbits w) = exec i { s with phase := .idle }) ∧
    (i = .response →
      step (s.withFetchWord nbits w) = exec .response { s.withReceived (tableBytes nbits w) with phase := .idle })
end

