-- ==== Sys2Proof/Laws/Operands.lean ====
section
/-! SUPPORT. One lemma per operand form and per codec function: ranges, clamps, bytes and integers, checksum, buildFrame, pack and
unpack, slices of a frame. -/

namespace Sys2Proof.Machine

@[simp] theorem inRange_iff (lo hi v : Int) : inRange lo hi v = true ↔ lo ≤ v ∧ v ≤ hi := by simp [inRange]

@[simp] theorem isByte_iff (v : Int) : isByte v = true ↔ 0 ≤ v ∧ v ≤ 255 := by simp [isByte]

@[simp] theorem servoIdLegal_iff (v : Int) : servoIdLegal v = true ↔ 1 ≤ v ∧ v ≤ 18 := by
  simp [servoIdLegal, Config.servoIdMin, Config.servoIdMax]

@[simp] theorem validateData_iff (data : List Int) : validateData data = true ↔ ∀ v ∈ data, 0 ≤ v ∧ v ≤ 255 := by
  simp [validateData]

theorem validateData_ofByte (bs : List Byte) : validateData (bs.map ofByte) = true := by
  simp only [validateData_iff, List.mem_map]
  rintro v ⟨b, -, rfl⟩
  have := b.isLt
  simp only [ofByte]
  omega

theorem clamp_mem (v lo hi : Int) (h : lo ≤ hi) : lo ≤ clamp v lo hi ∧ clamp v lo hi ≤ hi := by
  unfold clamp
  split
  · omega
  · split <;> omega

theorem clampAngle_mem (v : Int) : 0 ≤ clampAngle v ∧ clampAngle v ≤ 180 := clamp_mem v 0 180 (by decide)

theorem clampSpeed_mem (v : Int) : 0 ≤ clampSpeed v ∧ clampSpeed v ≤ 65535 := clamp_mem v 0 65535 (by decide)

theorem clampDeviation_mem (v : Int) : 0 ≤ clampDeviation v ∧ clampDeviation v ≤ 65535 := clamp_mem v 0 65535 (by decide)

theorem clamp_of_mem {v lo hi : Int} (h1 : lo ≤ v) (h2 : v ≤ hi) : clamp v lo hi = v := by
  unfold clamp
  split
  · omega
  · split <;> omega

@[simp] theorem toByte_ofByte (b : Byte) : toByte (ofByte b) = b := by simp [toByte, ofByte]

theorem ofByte_toByte {v : Int} (h0 : 0 ≤ v) (h1 : v ≤ 255) : ofByte (toByte v) = v := by
  simp only [ofByte, toByte, BitVec.toNat_ofNat]
  omega

@[simp] theorem map_toByte_ofByte (bs : List Byte) : (bs.map ofByte).map toByte = bs := by
  induction bs with
  | nil => rfl
  | cons b bs ih => simp_all

theorem map_ofByte_toByte {data : List Int} (h : ∀ v ∈ data, 0 ≤ v ∧ v ≤ 255) : (data.map toByte).map ofByte = data := by
  induction data with
  | nil => rfl
  | cons v vs ih =>
    have hv := h v (by simp)
    simp [ofByte_toByte hv.1 hv.2, ih fun w hw => h w (by simp [hw])]

theorem ofByte_mem (b : Byte) : 0 ≤ ofByte b ∧ ofByte b ≤ 255 := by
  have := b.isLt
  simp only [ofByte]
  omega

/-! ## Checksum and frames -/

@[simp] theorem checksum_cons (b : Byte) (bs : List Byte) : checksum (b :: bs) = .ok (checksumByte (b :: bs)) := rfl

/-- What buildFrame does, case by case (R81). -/
theorem buildFrame_eq (ins adr : Int) (data : List Byte) :
    buildFrame ins adr data =
      if ¬(0 ≤ ins ∧ ins ≤ 255) then .error .insRange
      else if ¬(0 ≤ adr ∧ adr ≤ 255) then .error .adrRange
      else if 250 < data.length then .error .dataLong
      else if 247 < data.length then .error .lenOverflow
      else .ok (frameBytes (BitVec.ofNat 8 (data.length + 8)) (toByte ins) (toByte adr) data) := by
  have hi : (!isByte ins) = true ↔ ¬(0 ≤ ins ∧ ins ≤ 255) := by rw [Bool.not_eq_true', ← Bool.not_eq_true, isByte_iff]
  have ha : (!isByte adr) = true ↔ ¬(0 ≤ adr ∧ adr ≤ 255) := by rw [Bool.not_eq_true', ← Bool.not_eq_true, isByte_iff]
  have hl : 255 < data.length + 8 ↔ 247 < data.length := by omega
  unfold buildFrame
  simp only [hi, ha, Config.maxData, Config.lenOverhead, hl, checksum_cons]
  simp [frameBytes, Config.header, Config.tail]

theorem buildFrame_ok {ins adr : Int} {data : List Byte} (hi : 0 ≤ ins ∧ ins ≤ 255) (ha : 0 ≤ adr ∧ adr ≤ 255)
    (hl : data.length ≤ 247) :
    buildFrame ins adr data = .ok (frameBytes (BitVec.ofNat 8 (data.length + 8)) (toByte ins) (toByte adr) data) := by
  rw [buildFrame_eq, if_neg (not_not.2 hi), if_neg (not_not.2 ha), if_neg (by omega), if_neg (by omega)]

/-- buildFrame succeeds on nothing else (R87). -/
theorem buildFrame_inv {ins adr : Int} {data f : List Byte} (h : buildFrame ins adr data = .ok f) :
    (0 ≤ ins ∧ ins ≤ 255) ∧ (0 ≤ adr ∧ adr ≤ 255) ∧ data.length ≤ 247 ∧
      f = frameBytes (BitVec.ofNat 8 (data.length + 8)) (toByte ins) (toByte adr) data := by
  rw [buildFrame_eq] at h
  split at h
  · cases h
  · split at h
    · cases h
    · split at h
      · cases h
      · split at h
        · cases h
        · cases h
          exact ⟨by tauto, by tauto, by omega, rfl⟩

@[simp] theorem frameBytes_length (l i a : Byte) (d : List Byte) : (frameBytes l i a d).length = d.length + 8 := by
  simp [frameBytes]

@[simp] theorem byteAt_frameBytes_0 (l i a : Byte) (d : List Byte) : byteAt (frameBytes l i a d) 0 = 0x55 := rfl
@[simp] theorem byteAt_frameBytes_1 (l i a : Byte) (d : List Byte) : byteAt (frameBytes l i a d) 1 = 0x00 := rfl
@[simp] theorem byteAt_frameBytes_2 (l i a : Byte) (d : List Byte) : byteAt (frameBytes l i a d) 2 = l := rfl
@[simp] theorem byteAt_frameBytes_3 (l i a : Byte) (d : List Byte) : byteAt (frameBytes l i a d) 3 = i := rfl
@[simp] theorem byteAt_frameBytes_4 (l i a : Byte) (d : List Byte) : byteAt (frameBytes l i a d) 4 = a := rfl

theorem byteAt_append_right (xs ys : List Byte) (i : Nat) : byteAt (xs ++ ys) (xs.length + i) = byteAt ys i := by
  simp [byteAt, List.getD_eq_getElem?_getD, List.getElem?_append_right]

theorem byteAt_frameBytes_chk (l i a : Byte) (d : List Byte) :
    byteAt (frameBytes l i a d) (d.length + 5) = checksumByte (l :: i :: a :: d) := by
  have h := byteAt_append_right ([0x55, 0x00, l, i, a] ++ d) [checksumByte (l :: i :: a :: d), 0x00, 0xAA] 0
  have e : ([0x55, 0x00, l, i, a] ++ d).length + 0 = d.length + 5 := by simp
  rw [e] at h
  exact h

theorem byteAt_frameBytes_tail0 (l i a : Byte) (d : List Byte) : byteAt (frameBytes l i a d) (d.length + 6) = 0x00 := by
  have h := byteAt_append_right ([0x55, 0x00, l, i, a] ++ d) [checksumByte (l :: i :: a :: d), 0x00, 0xAA] 1
  have e : ([0x55, 0x00, l, i, a] ++ d).length + 1 = d.length + 6 := by simp
  rw [e] at h
  exact h

theorem byteAt_frameBytes_tail1 (l i a : Byte) (d : List Byte) : byteAt (frameBytes l i a d) (d.length + 7) = 0xAA := by
  have h := byteAt_append_right ([0x55, 0x00, l, i, a] ++ d) [checksumByte (l :: i :: a :: d), 0x00, 0xAA] 2
  have e : ([0x55, 0x00, l, i, a] ++ d).length + 2 = d.length + 7 := by simp
  rw [e] at h
  exact h

/-- The bytes the checksum covers (R57). -/
theorem slice_frameBytes_body (l i a : Byte) (d : List Byte) :
    slice (frameBytes l i a d) 2 (d.length + 5) = l :: i :: a :: d := by
  simp [slice, frameBytes]

/-- The DATA field (R56). -/
theorem framePayload_frameBytes (l i a : Byte) (d : List Byte) : framePayload (frameBytes l i a d) (d.length + 8) = d := by
  simp [framePayload, slice, frameBytes]

/-- The LEN byte of a frame that can be built (R53). -/
theorem toNat_lenByte {n : Nat} (h : n ≤ 247) : (BitVec.ofNat 8 (n + 8)).toNat = n + 8 := by
  simp only [BitVec.toNat_ofNat]
  omega

/-- A frame with the LEN byte of its own length is well formed (R60). -/
theorem frameBytes_wellFormed (i a : Byte) {d : List Byte} (h : d.length ≤ 247) :
    frameWellFormed (frameBytes (BitVec.ofNat 8 (d.length + 8)) i a d) = true := by
  have e5 : d.length + 8 - 3 = d.length + 5 := by omega
  have e6 : d.length + 8 - 2 = d.length + 6 := by omega
  have e7 : d.length + 8 - 1 = d.length + 7 := by omega
  simp only [frameWellFormed, frameBytes_length, e5, e6, e7, byteAt_frameBytes_0, byteAt_frameBytes_1, byteAt_frameBytes_2,
    byteAt_frameBytes_chk, byteAt_frameBytes_tail0, byteAt_frameBytes_tail1, slice_frameBytes_body, toNat_lenByte h]
  simp

/-! ## 16-bit fields -/

theorem packUint16BE_ok {v : Int} (h0 : 0 ≤ v) (h1 : v ≤ 65535) :
    packUint16BE v = .ok [BitVec.ofNat 8 (v.toNat / 256), BitVec.ofNat 8 (v.toNat % 256)] := by
  have h : inRange 0 65535 v = true := by simp [h0, h1]
  simp [packUint16BE, h]

theorem packUint16BE_error {v : Int} (h : v < 0 ∨ 65535 < v) : packUint16BE v = .error .u16Range := by
  have h' : inRange 0 65535 v = false := by
    rw [← Bool.not_eq_true, inRange_iff]
    omega
  simp [packUint16BE, h']

theorem toNat_u16BE (hi lo : Byte) : (u16BE hi lo).toNat = 256 * hi.toNat + lo.toNat := by
  have := hi.isLt
  have := lo.isLt
  simp only [u16BE, BitVec.toNat_ofNat]
  omega

/-- The decoded field is the two bytes side by side, the first one high (R33). -/
theorem u16BE_eq_append (hi lo : Byte) : u16BE hi lo = hi ++ lo := by
  have := hi.isLt
  have := lo.isLt
  apply BitVec.eq_of_toNat_eq
  rw [toNat_u16BE, BitVec.toNat_append, ← Nat.shiftLeft_add_eq_or_of_lt (by omega), Nat.shiftLeft_eq]
  omega

theorem u16BE_pack {n : Nat} (h : n ≤ 65535) : (u16BE (BitVec.ofNat 8 (n / 256)) (BitVec.ofNat 8 (n % 256))).toNat = n := by
  rw [toNat_u16BE]
  simp only [BitVec.toNat_ofNat]
  omega

end Sys2Proof.Machine
end

