-- ==== Sys2Proof/Laws/State.lean ====
section
/-! SUPPORT. What each update of State does to each field: one lemma per field and update, so that no later proof unfolds an update. -/

namespace Sys2Proof.Machine

@[simp] theorem State.succeed_eq (s : State) (v : Value) : s.succeed v = s.deliver (.ok v) := rfl

@[simp] theorem State.raise_eq (s : State) (c : Cause) : s.raise c = s.deliver (.err c) := rfl

@[simp] theorem State.discard_session (s : State) : s.discard.session = s.session := rfl
@[simp] theorem State.discard_phase (s : State) : s.discard.phase = .idle := rfl
@[simp] theorem State.discard_txFrame (s : State) : s.discard.txFrame = [] := rfl
@[simp] theorem State.discard_rxHead (s : State) : s.discard.rxHead = [] := rfl
@[simp] theorem State.discard_rxBody (s : State) : s.discard.rxBody = [] := rfl
@[simp] theorem State.discard_rxFrame (s : State) : s.discard.rxFrame = [] := rfl
@[simp] theorem State.discard_form (s : State) : s.discard.form = .raw := rfl
@[simp] theorem State.discard_program (s : State) : s.discard.program = s.program := rfl
@[simp] theorem State.discard_outcomes (s : State) : s.discard.outcomes = s.outcomes := rfl
@[simp] theorem State.discard_trace (s : State) : s.discard.trace = s.trace := rfl
@[simp] theorem State.discard_diagnostics (s : State) : s.discard.diagnostics = s.diagnostics := rfl
@[simp] theorem State.discard_openAnswers (s : State) : s.discard.openAnswers = s.openAnswers := rfl
@[simp] theorem State.discard_closeAnswers (s : State) : s.discard.closeAnswers = s.closeAnswers := rfl
@[simp] theorem State.discard_writeAnswers (s : State) : s.discard.writeAnswers = s.writeAnswers := rfl
@[simp] theorem State.discard_readAnswers (s : State) : s.discard.readAnswers = s.readAnswers := rfl

@[simp] theorem State.deliver_session (s : State) (o : OpOutcome) : (s.deliver o).session = s.session := rfl
@[simp] theorem State.deliver_phase (s : State) (o : OpOutcome) : (s.deliver o).phase = .idle := rfl
@[simp] theorem State.deliver_txFrame (s : State) (o : OpOutcome) : (s.deliver o).txFrame = [] := rfl
@[simp] theorem State.deliver_rxHead (s : State) (o : OpOutcome) : (s.deliver o).rxHead = [] := rfl
@[simp] theorem State.deliver_rxBody (s : State) (o : OpOutcome) : (s.deliver o).rxBody = [] := rfl
@[simp] theorem State.deliver_rxFrame (s : State) (o : OpOutcome) : (s.deliver o).rxFrame = [] := rfl
@[simp] theorem State.deliver_form (s : State) (o : OpOutcome) : (s.deliver o).form = .raw := rfl
@[simp] theorem State.deliver_program (s : State) (o : OpOutcome) : (s.deliver o).program = s.program := rfl
@[simp] theorem State.deliver_outcomes (s : State) (o : OpOutcome) : (s.deliver o).outcomes = s.outcomes ++ [o] := rfl
@[simp] theorem State.deliver_trace (s : State) (o : OpOutcome) : (s.deliver o).trace = s.trace := rfl
@[simp] theorem State.deliver_diagnostics (s : State) (o : OpOutcome) : (s.deliver o).diagnostics = s.diagnostics := rfl
@[simp] theorem State.deliver_openAnswers (s : State) (o : OpOutcome) : (s.deliver o).openAnswers = s.openAnswers := rfl
@[simp] theorem State.deliver_closeAnswers (s : State) (o : OpOutcome) : (s.deliver o).closeAnswers = s.closeAnswers := rfl
@[simp] theorem State.deliver_writeAnswers (s : State) (o : OpOutcome) : (s.deliver o).writeAnswers = s.writeAnswers := rfl
@[simp] theorem State.deliver_readAnswers (s : State) (o : OpOutcome) : (s.deliver o).readAnswers = s.readAnswers := rfl

@[simp] theorem State.afterOpen_session (s : State) : s.afterOpen.session = s.session := rfl
@[simp] theorem State.afterOpen_phase (s : State) : s.afterOpen.phase = s.phase := rfl
@[simp] theorem State.afterOpen_txFrame (s : State) : s.afterOpen.txFrame = s.txFrame := rfl
@[simp] theorem State.afterOpen_rxHead (s : State) : s.afterOpen.rxHead = s.rxHead := rfl
@[simp] theorem State.afterOpen_rxBody (s : State) : s.afterOpen.rxBody = s.rxBody := rfl
@[simp] theorem State.afterOpen_rxFrame (s : State) : s.afterOpen.rxFrame = s.rxFrame := rfl
@[simp] theorem State.afterOpen_form (s : State) : s.afterOpen.form = s.form := rfl
@[simp] theorem State.afterOpen_program (s : State) : s.afterOpen.program = s.program := rfl
@[simp] theorem State.afterOpen_outcomes (s : State) : s.afterOpen.outcomes = s.outcomes := rfl
@[simp] theorem State.afterOpen_trace (s : State) : s.afterOpen.trace = s.trace ++ [.tOpen s.answerOpen] := rfl
@[simp] theorem State.afterOpen_diagnostics (s : State) : s.afterOpen.diagnostics = s.diagnostics := rfl
@[simp] theorem State.afterOpen_openAnswers (s : State) : s.afterOpen.openAnswers = s.openAnswers.tail := rfl
@[simp] theorem State.afterOpen_closeAnswers (s : State) : s.afterOpen.closeAnswers = s.closeAnswers := rfl
@[simp] theorem State.afterOpen_writeAnswers (s : State) : s.afterOpen.writeAnswers = s.writeAnswers := rfl
@[simp] theorem State.afterOpen_readAnswers (s : State) : s.afterOpen.readAnswers = s.readAnswers := rfl

@[simp] theorem State.afterClose_session (s : State) : s.afterClose.session = s.session := rfl
@[simp] theorem State.afterClose_phase (s : State) : s.afterClose.phase = s.phase := rfl
@[simp] theorem State.afterClose_txFrame (s : State) : s.afterClose.txFrame = s.txFrame := rfl
@[simp] theorem State.afterClose_rxHead (s : State) : s.afterClose.rxHead = s.rxHead := rfl
@[simp] theorem State.afterClose_rxBody (s : State) : s.afterClose.rxBody = s.rxBody := rfl
@[simp] theorem State.afterClose_rxFrame (s : State) : s.afterClose.rxFrame = s.rxFrame := rfl
@[simp] theorem State.afterClose_form (s : State) : s.afterClose.form = s.form := rfl
@[simp] theorem State.afterClose_program (s : State) : s.afterClose.program = s.program := rfl
@[simp] theorem State.afterClose_outcomes (s : State) : s.afterClose.outcomes = s.outcomes := rfl
@[simp] theorem State.afterClose_trace (s : State) : s.afterClose.trace = s.trace ++ [.tClose] := rfl
@[simp] theorem State.afterClose_diagnostics (s : State) : s.afterClose.diagnostics = s.diagnostics ++ closeDiagnostic s.answerClose := rfl
@[simp] theorem State.afterClose_openAnswers (s : State) : s.afterClose.openAnswers = s.openAnswers := rfl
@[simp] theorem State.afterClose_closeAnswers (s : State) : s.afterClose.closeAnswers = s.closeAnswers.tail := rfl
@[simp] theorem State.afterClose_writeAnswers (s : State) : s.afterClose.writeAnswers = s.writeAnswers := rfl
@[simp] theorem State.afterClose_readAnswers (s : State) : s.afterClose.readAnswers = s.readAnswers := rfl

@[simp] theorem State.afterWrite_session (s : State) (bs : List Byte) : (s.afterWrite bs).session = s.session := rfl
@[simp] theorem State.afterWrite_phase (s : State) (bs : List Byte) : (s.afterWrite bs).phase = s.phase := rfl
@[simp] theorem State.afterWrite_txFrame (s : State) (bs : List Byte) : (s.afterWrite bs).txFrame = s.txFrame := rfl
@[simp] theorem State.afterWrite_rxHead (s : State) (bs : List Byte) : (s.afterWrite bs).rxHead = s.rxHead := rfl
@[simp] theorem State.afterWrite_rxBody (s : State) (bs : List Byte) : (s.afterWrite bs).rxBody = s.rxBody := rfl
@[simp] theorem State.afterWrite_rxFrame (s : State) (bs : List Byte) : (s.afterWrite bs).rxFrame = s.rxFrame := rfl
@[simp] theorem State.afterWrite_form (s : State) (bs : List Byte) : (s.afterWrite bs).form = s.form := rfl
@[simp] theorem State.afterWrite_program (s : State) (bs : List Byte) : (s.afterWrite bs).program = s.program := rfl
@[simp] theorem State.afterWrite_outcomes (s : State) (bs : List Byte) : (s.afterWrite bs).outcomes = s.outcomes := rfl
@[simp] theorem State.afterWrite_trace (s : State) (bs : List Byte) : (s.afterWrite bs).trace = s.trace ++ [.tWrite bs (s.answerWrite bs)] := rfl
@[simp] theorem State.afterWrite_diagnostics (s : State) (bs : List Byte) : (s.afterWrite bs).diagnostics = s.diagnostics := rfl
@[simp] theorem State.afterWrite_openAnswers (s : State) (bs : List Byte) : (s.afterWrite bs).openAnswers = s.openAnswers := rfl
@[simp] theorem State.afterWrite_closeAnswers (s : State) (bs : List Byte) : (s.afterWrite bs).closeAnswers = s.closeAnswers := rfl
@[simp] theorem State.afterWrite_writeAnswers (s : State) (bs : List Byte) : (s.afterWrite bs).writeAnswers = s.writeAnswers.tail := rfl
@[simp] theorem State.afterWrite_readAnswers (s : State) (bs : List Byte) : (s.afterWrite bs).readAnswers = s.readAnswers := rfl

@[simp] theorem State.afterRead_session (s : State) (n k : Nat) : (s.afterRead n k).session = s.session := rfl
@[simp] theorem State.afterRead_phase (s : State) (n k : Nat) : (s.afterRead n k).phase = s.phase := rfl
@[simp] theorem State.afterRead_txFrame (s : State) (n k : Nat) : (s.afterRead n k).txFrame = s.txFrame := rfl
@[simp] theorem State.afterRead_rxHead (s : State) (n k : Nat) : (s.afterRead n k).rxHead = s.rxHead := rfl
@[simp] theorem State.afterRead_rxBody (s : State) (n k : Nat) : (s.afterRead n k).rxBody = s.rxBody := rfl
@[simp] theorem State.afterRead_rxFrame (s : State) (n k : Nat) : (s.afterRead n k).rxFrame = s.rxFrame := rfl
@[simp] theorem State.afterRead_form (s : State) (n k : Nat) : (s.afterRead n k).form = s.form := rfl
@[simp] theorem State.afterRead_program (s : State) (n k : Nat) : (s.afterRead n k).program = s.program := rfl
@[simp] theorem State.afterRead_outcomes (s : State) (n k : Nat) : (s.afterRead n k).outcomes = s.outcomes := rfl
@[simp] theorem State.afterRead_trace (s : State) (n k : Nat) : (s.afterRead n k).trace = s.trace ++ [.tRead n k (s.answerRead n k)] := rfl
@[simp] theorem State.afterRead_diagnostics (s : State) (n k : Nat) : (s.afterRead n k).diagnostics = s.diagnostics := rfl
@[simp] theorem State.afterRead_openAnswers (s : State) (n k : Nat) : (s.afterRead n k).openAnswers = s.openAnswers := rfl
@[simp] theorem State.afterRead_closeAnswers (s : State) (n k : Nat) : (s.afterRead n k).closeAnswers = s.closeAnswers := rfl
@[simp] theorem State.afterRead_writeAnswers (s : State) (n k : Nat) : (s.afterRead n k).writeAnswers = s.writeAnswers := rfl
@[simp] theorem State.afterRead_readAnswers (s : State) (n k : Nat) : (s.afterRead n k).readAnswers = s.readAnswers.tail := rfl

@[simp] theorem State.noteClamp_session (s : State) (fd : ClampedField) (g u : Int) :
    (s.noteClamp fd g u).session = s.session := by
  by_cases h : g = u <;> simp [State.noteClamp, h]
@[simp] theorem State.noteClamp_phase (s : State) (fd : ClampedField) (g u : Int) :
    (s.noteClamp fd g u).phase = s.phase := by
  by_cases h : g = u <;> simp [State.noteClamp, h]
@[simp] theorem State.noteClamp_txFrame (s : State) (fd : ClampedField) (g u : Int) :
    (s.noteClamp fd g u).txFrame = s.txFrame := by
  by_cases h : g = u <;> simp [State.noteClamp, h]
@[simp] theorem State.noteClamp_rxHead (s : State) (fd : ClampedField) (g u : Int) :
    (s.noteClamp fd g u).rxHead = s.rxHead := by
  by_cases h : g = u <;> simp [State.noteClamp, h]
@[simp] theorem State.noteClamp_rxBody (s : State) (fd : ClampedField) (g u : Int) :
    (s.noteClamp fd g u).rxBody = s.rxBody := by
  by_cases h : g = u <;> simp [State.noteClamp, h]
@[simp] theorem State.noteClamp_rxFrame (s : State) (fd : ClampedField) (g u : Int) :
    (s.noteClamp fd g u).rxFrame = s.rxFrame := by
  by_cases h : g = u <;> simp [State.noteClamp, h]
@[simp] theorem State.noteClamp_form (s : State) (fd : ClampedField) (g u : Int) :
    (s.noteClamp fd g u).form = s.form := by
  by_cases h : g = u <;> simp [State.noteClamp, h]
@[simp] theorem State.noteClamp_program (s : State) (fd : ClampedField) (g u : Int) :
    (s.noteClamp fd g u).program = s.program := by
  by_cases h : g = u <;> simp [State.noteClamp, h]
@[simp] theorem State.noteClamp_outcomes (s : State) (fd : ClampedField) (g u : Int) :
    (s.noteClamp fd g u).outcomes = s.outcomes := by
  by_cases h : g = u <;> simp [State.noteClamp, h]
@[simp] theorem State.noteClamp_trace (s : State) (fd : ClampedField) (g u : Int) :
    (s.noteClamp fd g u).trace = s.trace := by
  by_cases h : g = u <;> simp [State.noteClamp, h]
@[simp] theorem State.noteClamp_diagnostics (s : State) (fd : ClampedField) (g u : Int) :
    (s.noteClamp fd g u).diagnostics = s.diagnostics ++ (if g = u then [] else [.clamped fd g u]) := by
  by_cases h : g = u <;> simp [State.noteClamp, h]
@[simp] theorem State.noteClamp_openAnswers (s : State) (fd : ClampedField) (g u : Int) :
    (s.noteClamp fd g u).openAnswers = s.openAnswers := by
  by_cases h : g = u <;> simp [State.noteClamp, h]
@[simp] theorem State.noteClamp_closeAnswers (s : State) (fd : ClampedField) (g u : Int) :
    (s.noteClamp fd g u).closeAnswers = s.closeAnswers := by
  by_cases h : g = u <;> simp [State.noteClamp, h]
@[simp] theorem State.noteClamp_writeAnswers (s : State) (fd : ClampedField) (g u : Int) :
    (s.noteClamp fd g u).writeAnswers = s.writeAnswers := by
  by_cases h : g = u <;> simp [State.noteClamp, h]
@[simp] theorem State.noteClamp_readAnswers (s : State) (fd : ClampedField) (g u : Int) :
    (s.noteClamp fd g u).readAnswers = s.readAnswers := by
  by_cases h : g = u <;> simp [State.noteClamp, h]

/-! The parts of State that an update leaves alone as a whole. -/

@[simp] theorem State.discard_toTransport (s : State) : s.discard.toTransport = s.toTransport := rfl
@[simp] theorem State.discard_toOutputs (s : State) : s.discard.toOutputs = s.toOutputs := rfl
@[simp] theorem State.discard_toHostSide (s : State) : s.discard.toHostSide = s.toHostSide := rfl
@[simp] theorem State.deliver_toTransport (s : State) (o : OpOutcome) : (s.deliver o).toTransport = s.toTransport := rfl
@[simp] theorem State.deliver_toHostSide (s : State) (o : OpOutcome) : (s.deliver o).toHostSide = s.toHostSide := rfl
@[simp] theorem State.afterOpen_toBlock (s : State) : s.afterOpen.toBlock = s.toBlock := rfl
@[simp] theorem State.afterOpen_toOutputs (s : State) : s.afterOpen.toOutputs = s.toOutputs := rfl
@[simp] theorem State.afterOpen_toHostSide (s : State) : s.afterOpen.toHostSide = s.toHostSide := rfl
@[simp] theorem State.afterClose_toBlock (s : State) : s.afterClose.toBlock = s.toBlock := rfl
@[simp] theorem State.afterClose_toHostSide (s : State) : s.afterClose.toHostSide = s.toHostSide := rfl
@[simp] theorem State.afterWrite_toBlock (s : State) (bs : List Byte) : (s.afterWrite bs).toBlock = s.toBlock := rfl
@[simp] theorem State.afterWrite_toOutputs (s : State) (bs : List Byte) : (s.afterWrite bs).toOutputs = s.toOutputs := rfl
@[simp] theorem State.afterWrite_toHostSide (s : State) (bs : List Byte) : (s.afterWrite bs).toHostSide = s.toHostSide := rfl
@[simp] theorem State.afterRead_toBlock (s : State) (n k : Nat) : (s.afterRead n k).toBlock = s.toBlock := rfl
@[simp] theorem State.afterRead_toOutputs (s : State) (n k : Nat) : (s.afterRead n k).toOutputs = s.toOutputs := rfl
@[simp] theorem State.afterRead_toHostSide (s : State) (n k : Nat) : (s.afterRead n k).toHostSide = s.toHostSide := rfl
@[simp] theorem State.noteClamp_toBlock (s : State) (fd : ClampedField) (g u : Int) :
    (s.noteClamp fd g u).toBlock = s.toBlock := by
  by_cases h : g = u <;> simp [State.noteClamp, h]
@[simp] theorem State.noteClamp_toTransport (s : State) (fd : ClampedField) (g u : Int) :
    (s.noteClamp fd g u).toTransport = s.toTransport := by
  by_cases h : g = u <;> simp [State.noteClamp, h]
@[simp] theorem State.noteClamp_toHostSide (s : State) (fd : ClampedField) (g u : Int) :
    (s.noteClamp fd g u).toHostSide = s.toHostSide := by
  by_cases h : g = u <;> simp [State.noteClamp, h]

/-! The transport's answers depend on its script and on the trace, and on nothing else. -/

theorem State.answerOpen_congr {s s' : State} (ha : s.openAnswers = s'.openAnswers) (ht : s.trace = s'.trace) :
    s.answerOpen = s'.answerOpen := by simp [State.answerOpen, ha, ht]

theorem State.answerClose_congr {s s' : State} (ha : s.closeAnswers = s'.closeAnswers) (ht : s.trace = s'.trace) :
    s.answerClose = s'.answerClose := by simp [State.answerClose, ha, ht]

theorem State.answerWrite_congr {s s' : State} (bs : List Byte) (ha : s.writeAnswers = s'.writeAnswers)
    (ht : s.trace = s'.trace) : s.answerWrite bs = s'.answerWrite bs := by simp [State.answerWrite, ha, ht]

theorem State.answerRead_congr {s s' : State} (n k : Nat) (ha : s.readAnswers = s'.readAnswers) (ht : s.trace = s'.trace) :
    s.answerRead n k = s'.answerRead n k := by simp [State.answerRead, ha, ht]

@[simp] theorem State.discard_answerWrite (s : State) (bs : List Byte) : s.discard.answerWrite bs = s.answerWrite bs := rfl

@[simp] theorem State.discard_answerRead (s : State) (n k : Nat) : s.discard.answerRead n k = s.answerRead n k := rfl

@[simp] theorem State.noteClamp_answerWrite (s : State) (fd : ClampedField) (g u : Int) (bs : List Byte) :
    (s.noteClamp fd g u).answerWrite bs = s.answerWrite bs :=
  State.answerWrite_congr bs (by simp) (by simp)

@[simp] theorem State.noteClamp_answerRead (s : State) (fd : ClampedField) (g u : Int) (n k : Nat) :
    (s.noteClamp fd g u).answerRead n k = s.answerRead n k :=
  State.answerRead_congr n k (by simp) (by simp)

/-! The state between operations (R10). -/

theorem State.atRest_iff (s : State) : s.atRest = true ↔
    s.phase = .idle ∧ s.txFrame = [] ∧ s.rxHead = [] ∧ s.rxBody = [] ∧ s.rxFrame = [] ∧ s.form = .raw := by
  simp [State.atRest, and_assoc]

theorem State.phase_of_atRest {s : State} (h : s.atRest = true) : s.phase = .idle := ((State.atRest_iff s).1 h).1

/-- A state at rest holds nothing to discard. -/
theorem State.discard_of_atRest {s : State} (h : s.atRest = true) : s.discard = s := by
  obtain ⟨h1, h2, h3, h4, h5, h6⟩ := (State.atRest_iff s).1 h
  obtain ⟨⟨⟩, t, o, p⟩ := s
  simp_all [State.discard]

@[simp] theorem State.discard_atRest (s : State) : s.discard.atRest = true := by simp [State.atRest_iff]

@[simp] theorem State.deliver_atRest (s : State) (o : OpOutcome) : (s.deliver o).atRest = true := by simp [State.atRest_iff]

/-- From a state at rest, the end of an operation moves nothing but the outcomes. -/
theorem State.deliver_of_atRest {s : State} (h : s.atRest = true) (o : OpOutcome) :
    s.deliver o = { s with outcomes := s.outcomes ++ [o] } := by
  rw [State.deliver, State.discard_of_atRest h]

@[simp] theorem State.afterOpen_atRest (s : State) : s.afterOpen.atRest = s.atRest := rfl

@[simp] theorem State.afterClose_atRest (s : State) : s.afterClose.atRest = s.atRest := rfl

@[simp] theorem State.afterWrite_atRest (s : State) (bs : List Byte) : (s.afterWrite bs).atRest = s.atRest := rfl

@[simp] theorem State.afterRead_atRest (s : State) (n k : Nat) : (s.afterRead n k).atRest = s.atRest := rfl

@[simp] theorem State.noteClamp_atRest (s : State) (fd : ClampedField) (g u : Int) :
    (s.noteClamp fd g u).atRest = s.atRest := by simp [State.atRest]

theorem State.reset_atRest : State.reset.atRest = true := by decide

/-! The block beside a transport (R22). -/

@[simp] theorem Block.beside_toBlock (b : Block) (T : Transport) : (b.beside T).toBlock = b := rfl
@[simp] theorem Block.beside_toTransport (b : Block) (T : Transport) : (b.beside T).toTransport = T := rfl
@[simp] theorem Block.beside_outcomes (b : Block) (T : Transport) : (b.beside T).outcomes = [] := rfl
@[simp] theorem Block.beside_diagnostics (b : Block) (T : Transport) : (b.beside T).diagnostics = [] := rfl
@[simp] theorem Block.beside_program (b : Block) (T : Transport) : (b.beside T).program = [] := rfl

end Sys2Proof.Machine
end

