-- ==== Sys2Proof/Laws/Ops.lean ====
section
/-! SUPPORT. One lemma per shared operation that says everything it can do when it answers a next state. -/

namespace Sys2Proof.Machine

@[simp] theorem andThen_next {α β : Type} (a : α) (f : α → Result β) : andThen (.next a : Result α) f = f a := rfl

@[simp] theorem andThen_fault {α β : Type} (x : Fault) (f : α → Result β) :
    andThen (.fault x : Result α) f = .fault x := rfl

@[simp] theorem andThen_refused {α β : Type} (x : Refusal) (f : α → Result β) :
    andThen (.refused x : Result α) f = .refused x := rfl

theorem andThen_eq_next {α β : Type} {r : Result α} {f : α → Result β} {b : β} (h : andThen r f = .next b) :
    ∃ a, r = .next a ∧ f a = .next b := by
  cases r with
  | next a => exact ⟨a, rfl, h⟩
  | fault x => cases h
  | refused x => cases h

/-- The block's step relation has a next state exactly when `exec` beside that transport has, and it is the parts of that state. -/
theorem Block.operate_next_iff {i : Instr} {T T' : Transport} {b b' : Block} {out : Outputs} :
    Block.operate i T b = .next (b', T', out) ↔
      ∃ t, exec i (b.beside T) = .next t ∧ t.toBlock = b' ∧ t.toTransport = T' ∧ t.toOutputs = out := by
  constructor
  · intro h
    obtain ⟨t, ht, h⟩ := andThen_eq_next h
    cases h
    exact ⟨t, ht, rfl, rfl, rfl⟩
  · rintro ⟨t, ht, rfl, rfl, rfl⟩
    rw [Block.operate, ht, andThen_next]

/-- A host operation has a next state only between operations. -/
theorem hostOperation_next {body : State → Result State} {s t : State} (h : hostOperation body s = .next t) :
    s.phase = .idle ∧ body s = .next t := by
  unfold hostOperation at h
  split at h
  · exact ⟨by assumption, h⟩
  · cases h

theorem hostOperation_idle {body : State → Result State} {s : State} (h : s.phase = .idle) :
    hostOperation body s = body s := by simp [hostOperation, h]

theorem hostOperation_busy {body : State → Result State} {s : State} (h : s.phase ≠ .idle) :
    hostOperation body s = .refused .operationInProgress := by
  unfold hostOperation
  split
  · contradiction
  · rfl

/-! ## Transactions -/

theorem tWrite_ok {s : State} {bs : List Byte} (h : writeContract bs (s.answerWrite bs) = true) :
    tWrite bs s = .next (s.answerWrite bs, s.afterWrite bs) := by simp [tWrite, h]

theorem tWrite_next {s : State} {bs : List Byte} {r : Answer Nat × State} (h : tWrite bs s = .next r) :
    writeContract bs (s.answerWrite bs) = true ∧ r = (s.answerWrite bs, s.afterWrite bs) := by
  unfold tWrite at h
  split at h
  · next hc => exact ⟨hc, by cases h; rfl⟩
  · cases h

theorem tRead_ok {s : State} {n k : Nat} (h : readContract n (s.answerRead n k) = true) :
    tRead n k s = .next (s.answerRead n k, s.afterRead n k) := by simp [tRead, h]

theorem tRead_next {s : State} {n k : Nat} {r : Answer (List Byte) × State} (h : tRead n k s = .next r) :
    readContract n (s.answerRead n k) = true ∧ r = (s.answerRead n k, s.afterRead n k) := by
  unfold tRead at h
  split at h
  · next hc => exact ⟨hc, by cases h; rfl⟩
  · cases h

/-- A free answer of the oracle keeps the contract of T.write. -/
theorem writeContract_oracle {s : State} (bs : List Byte) (h : s.writeAnswers = []) :
    writeContract bs (s.answerWrite bs) = true := by
  simp only [State.answerWrite, h]
  cases Config.oracleWrite s.trace bs with
  | err e => rfl
  | ok k =>
    have := k.isLt
    simp only [plainCount, writeContract, decide_eq_true_eq]
    omega

/-- A free answer of the oracle keeps the contract of T.read. -/
theorem readContract_oracle {s : State} (n k : Nat) (h : s.readAnswers = []) :
    readContract n (s.answerRead n k) = true := by
  simp only [State.answerRead, h]
  cases Config.oracleRead s.trace n k with
  | err e => rfl
  | ok bs => simpa [plainBytes, readContract] using bs.property

/-- What SendFrame makes of the answer, as an outcome (R119). -/
theorem sendCause_outcome (f : List Byte) (a : Answer Nat) :
    (∃ c, sendCause f.length a = some c ∧ writeOutcome f a = .err c ∧ (c = .tWrite ∨ c = .shortWrite)) ∨
      (sendCause f.length a = none ∧ writeOutcome f a = .ok .unit) := by
  cases a with
  | err e => exact .inl ⟨.tWrite, rfl, rfl, .inl rfl⟩
  | ok k =>
    by_cases h : k < f.length ∧ Config.shortWriteIsError = true
    · exact .inl ⟨.shortWrite, by simp [sendCause, h], by simp [writeOutcome, h], .inr rfl⟩
    · refine .inr ⟨?_, by simp [writeOutcome, h]⟩
      rw [not_and_or] at h
      rcases h with h | h <;> simp [sendCause, h]

/-! ## write -/

/-- After SendFrame the frame is discarded: nothing else of `s` has moved but the transaction. -/
theorem sendFrame_next {s : State} {r : Option Cause × State} (h : sendFrame s = .next r) :
    writeContract s.txFrame (s.answerWrite s.txFrame) = true ∧
      r = (sendCause s.txFrame.length (s.answerWrite s.txFrame), { s.afterWrite s.txFrame with txFrame := [] }) := by
  obtain ⟨x, hx, hr⟩ := andThen_eq_next h
  obtain ⟨hc, rfl⟩ := tWrite_next hx
  exact ⟨hc, by cases hr; rfl⟩

theorem sendFrame_ok {s : State} (h : writeContract s.txFrame (s.answerWrite s.txFrame) = true) :
    sendFrame s =
      .next (sendCause s.txFrame.length (s.answerWrite s.txFrame), { s.afterWrite s.txFrame with txFrame := [] }) := by
  simp [sendFrame, tWrite_ok h]

/-- write with illegal operands or in a closed session: only the error. -/
theorem writeCommand_error {address : Int} {data : List Int} {s : State} {c : Cause}
    (h : requestFrame Config.insWrite address data s = .error c) :
    writeCommand address data s = .next (s.deliver (.err c)) := by simp [writeCommand, h]

/-- write with a frame: one transaction and its outcome. -/
theorem writeCommand_ok {address : Int} {data : List Int} {s : State} {f : List Byte}
    (h : requestFrame Config.insWrite address data s = .ok f) (hc : writeContract f (s.answerWrite f) = true) :
    writeCommand address data s = .next ((s.afterWrite f).deliver (writeOutcome f (s.answerWrite f))) := by
  have hs : sendFrame { s.discard with txFrame := f } =
      .next (sendCause f.length (s.answerWrite f), { s.discard.afterWrite f with txFrame := [] }) :=
    sendFrame_ok (s := { s.discard with txFrame := f }) hc
  simp only [writeCommand, h, hs, andThen_next]
  rcases sendCause_outcome f (s.answerWrite f) with ⟨c, h1, h2, -⟩ | ⟨h1, h2⟩ <;> rw [h1, h2] <;> rfl

/-- Everything write can do (R103). -/
theorem writeCommand_next {address : Int} {data : List Int} {s t : State} (h : writeCommand address data s = .next t) :
    (∃ c, requestFrame Config.insWrite address data s = .error c ∧ t = s.deliver (.err c)) ∨
      (∃ f, requestFrame Config.insWrite address data s = .ok f ∧ writeContract f (s.answerWrite f) = true ∧
        t = (s.afterWrite f).deliver (writeOutcome f (s.answerWrite f))) := by
  cases hr : requestFrame Config.insWrite address data s with
  | error c =>
    rw [writeCommand_error hr] at h
    exact .inl ⟨c, rfl, by cases h; rfl⟩
  | ok f =>
    refine .inr ⟨f, rfl, ?_⟩
    have hc : writeContract f (s.answerWrite f) = true := by
      simp only [writeCommand, hr] at h
      obtain ⟨x, hx, -⟩ := andThen_eq_next h
      exact (sendFrame_next hx).1
    rw [writeCommand_ok hr hc] at h
    exact ⟨hc, by cases h; rfl⟩

/-- The checks before anything is sent (R100, R120, R81). -/
theorem requestFrame_ok {ins address : Int} {data : List Int} {s : State} {f : List Byte}
    (h : requestFrame ins address data s = .ok f) :
    s.session = .opened ∧ validateData data = true ∧ buildFrame ins address (data.map toByte) = .ok f := by
  unfold requestFrame at h
  split at h
  · cases h
  · next ho =>
    split at h
    · next hv => exact ⟨ho, hv, h⟩
    · cases h

theorem requestFrame_closed {ins address : Int} {data : List Int} {s : State} (h : s.session = .closed) :
    requestFrame ins address data s = .error .notOpen := by simp [requestFrame, h]

theorem requestFrame_opened {ins address : Int} {data : List Int} {s : State} (h : s.session = .opened) :
    requestFrame ins address data s =
      if validateData data then buildFrame ins address (data.map toByte) else .error .dataByte := by
  simp [requestFrame, h]

/-- A request that is built is a frame that can be built (R51). -/
theorem requestFrame_frame {ins address : Int} {data : List Int} {s : State} {f : List Byte}
    (h : requestFrame ins address data s = .ok f) :
    (data.map toByte).length ≤ 247 ∧
      f = frameBytes (BitVec.ofNat 8 ((data.map toByte).length + 8)) (toByte ins) (toByte address) (data.map toByte) := by
  obtain ⟨-, -, hb⟩ := requestFrame_ok h
  obtain ⟨-, -, hl, hf⟩ := buildFrame_inv hb
  exact ⟨hl, hf⟩

/-! ## The response protocol -/

/-- What the response protocol leaves when it starts in `s` (R105 to R110): an error after the first read, or after the second one,
whose size is the LEN byte less 3, an error or the operation's outcome on its payload. -/
inductive Received (form : PayloadForm) (s : State) : State → Prop where
  | first (c : Cause) (hc : c ∈ [Cause.tRead, .hdrShort, .hdrBad, .lenBad])
      (h1 : readContract 3 (s.answerRead 3 1) = true) : Received form s ((s.afterRead 3 1).deliver (.err c))
  | second (n : Byte) (o : OpOutcome) (h1 : readContract 3 (s.answerRead 3 1) = true) (hn : 5 ≤ n.toNat)
      (h2 : readContract (n.toNat - 3) ((s.afterRead 3 1).answerRead (n.toNat - 3) 1) = true)
      (ho : o ∈ [OpOutcome.err .tRead, .err .bodyShort, .err .tailBad] ∨ ∃ p, o = payloadOutcome form p) :
      Received form s ((s.afterResponse n).deliver o)

theorem advances_idle {s : State} (h : s.phase = .idle) (k : Nat) : advances k s = .next s := by
  induction k with
  | zero => rfl
  | succ k ih => simp [advances, advance, h, ih]

theorem advances_succ (k : Nat) (s : State) : advances (k + 1) s = andThen (advance s) (advances k) := rfl

theorem advances_deliver (k : Nat) (s : State) (o : OpOutcome) : advances k (s.deliver o) = .next (s.deliver o) :=
  advances_idle rfl k

/-- From the tail check on (R109, R110). -/
theorem advances_checkTail {s : State} (h : s.phase = .checkTail) (k : Nat) :
    advances (k + 2) s =
      .next (s.deliver (if byteAt s.rxFrame (s.rxLen - 2) ≠ 0x00 ∨ byteAt s.rxFrame (s.rxLen - 1) ≠ 0xAA then .err .tailBad
        else payloadOutcome s.form (framePayload s.rxFrame s.rxLen))) := by
  by_cases ht : byteAt s.rxFrame (s.rxLen - 2) ≠ 0x00 ∨ byteAt s.rxFrame (s.rxLen - 1) ≠ 0xAA
  · have hb : (byteAt s.rxFrame (s.rxLen - 2) != 0x00 || byteAt s.rxFrame (s.rxLen - 1) != 0xAA) = true := by simpa using ht
    simp only [advances_succ, advance, h, phaseCheckTail, hb, if_true, if_pos ht, andThen_next, State.raise_eq]
    exact advances_deliver (k + 1) s _
  · have hb : (byteAt s.rxFrame (s.rxLen - 2) != 0x00 || byteAt s.rxFrame (s.rxLen - 1) != 0xAA) = false := by simpa using ht
    simp only [advances_succ, advance, h, phaseCheckTail, hb, if_neg ht, Bool.false_eq_true, if_false, andThen_next,
      phaseExtract]
    exact advances_deliver k _ _

/-- From the second read on (R108 to R110). -/
theorem advances_readBody {s : State} (h : s.phase = .readBody) (k : Nat)
    (hc : readContract (s.rxLen - 3) (s.answerRead (s.rxLen - 3) 1) = true) :
    advances (k + 3) s = .next ((s.afterRead (s.rxLen - 3) 1).deliver
      (match s.answerRead (s.rxLen - 3) 1 with
      | .err _ => .err .tRead
      | .ok b =>
        if b.length < s.rxLen - 3 then .err .bodyShort
        else if byteAt (s.rxHead ++ b) (s.rxLen - 2) ≠ 0x00 ∨ byteAt (s.rxHead ++ b) (s.rxLen - 1) ≠ 0xAA then .err .tailBad
        else payloadOutcome s.form (framePayload (s.rxHead ++ b) s.rxLen))) := by
  rw [advances_succ, advance, h]
  simp only [phaseReadBody, Config.rxHeadBytes, Config.rxTimeout, tRead_ok hc, andThen_next]
  cases ha : s.answerRead (s.rxLen - 3) 1 with
  | err e => simp [advances_deliver]
  | ok b =>
    by_cases hb : b.length < s.rxLen - 3
    · simp [hb, advances_deliver]
    · simp only [hb, if_false, andThen_next]
      rw [advances_checkTail rfl]
      rfl

/-- The whole response protocol from its first step (R105 to R110), when the transport keeps its contract. -/
theorem advances_readHead {s : State} (h : s.phase = .readHead) (k : Nat)
    (hc : readContract 3 (s.answerRead 3 1) = true) :
    advances (k + 5) s =
      match s.answerRead 3 1 with
      | .err _ => .next ((s.afterRead 3 1).deliver (.err .tRead))
      | .ok hd =>
        if hd.length < 3 then .next ((s.afterRead 3 1).deliver (.err .hdrShort))
        else if byteAt hd 0 ≠ 0x55 ∨ byteAt hd 1 ≠ 0x00 then .next ((s.afterRead 3 1).deliver (.err .hdrBad))
        else if (byteAt hd 2).toNat < 5 then .next ((s.afterRead 3 1).deliver (.err .lenBad))
        else advances (k + 3) { s.afterRead 3 1 with rxHead := hd, phase := .readBody } := by
  rw [advances_succ (k + 4), advance, h]
  simp only [phaseReadHead, Config.rxHeadBytes, Config.rxTimeout, tRead_ok hc, andThen_next]
  cases ha : s.answerRead 3 1 with
  | err e => simp [advances_deliver]
  | ok hd =>
    by_cases h3 : hd.length < 3
    · simp [h3, advances_deliver]
    · simp only [if_neg h3, andThen_next]
      rw [advances_succ (k + 3)]
      by_cases hh : byteAt hd 0 ≠ 0x55 ∨ byteAt hd 1 ≠ 0x00
      · have hb : (byteAt hd 0 != 0x55 || byteAt hd 1 != 0x00) = true := by simpa using hh
        simp only [if_pos hh, advance, phaseCheckHead, hb, if_true, State.raise_eq, andThen_next]
        exact advances_deliver (k + 3) _ _
      · have hb : (byteAt hd 0 != 0x55 || byteAt hd 1 != 0x00) = false := by simpa using hh
        by_cases hn : (byteAt hd 2).toNat < 5
        · simp only [if_neg hh, advance, phaseCheckHead, hb, Bool.false_eq_true, if_false, State.rxLen, Config.rxMinLen, hn, if_true,
            State.raise_eq, andThen_next]
          exact advances_deliver (k + 3) _ _
        · simp only [if_neg hh, advance, phaseCheckHead, hb, Bool.false_eq_true, if_false, State.rxLen, Config.rxMinLen,
            hn, andThen_next]

/-- A stop in the response protocol is a breach of the transport contract. -/
theorem advances_readHead_next {s t : State} (h : s.phase = .readHead) (k : Nat) (ht : advances (k + 5) s = .next t) :
    readContract 3 (s.answerRead 3 1) = true := by
  rw [advances_succ, advance, h] at ht
  obtain ⟨x, hx, -⟩ := andThen_eq_next ht
  obtain ⟨y, hy, -⟩ := andThen_eq_next hx
  exact (tRead_next hy).1

theorem advances_readBody_next {s t : State} (h : s.phase = .readBody) (k : Nat) (ht : advances (k + 3) s = .next t) :
    readContract (s.rxLen - 3) (s.answerRead (s.rxLen - 3) 1) = true := by
  rw [advances_succ, advance, h] at ht
  obtain ⟨x, hx, -⟩ := andThen_eq_next ht
  obtain ⟨y, hy, -⟩ := andThen_eq_next hx
  exact (tRead_next hy).1

/-- Everything the response protocol can do. -/
theorem received_of_readHead {s t : State} (h : s.phase = .readHead) (k : Nat) (ht : advances (k + 5) s = .next t) :
    Received s.form s t := by
  have h1 := advances_readHead_next h k ht
  rw [advances_readHead h k h1] at ht
  split at ht
  · cases ht
    exact .first _ (by simp) h1
  · next hd ha =>
    split at ht
    · cases ht
      exact .first _ (by simp) h1
    · split at ht
      · cases ht
        exact .first _ (by simp) h1
      · split at ht
        · cases ht
          exact .first _ (by simp) h1
        · next hn =>
          have h2 := advances_readBody_next rfl k ht
          rw [advances_readBody rfl k h2] at ht
          cases ht
          refine .second (byteAt hd 2) _ h1 (by omega) h2 ?_
          split
          · simp
          · split
            · simp
            · split
              · simp
              · exact .inr ⟨_, rfl⟩

/-! ## read -/

theorem readCommand_error {form : PayloadForm} {address : Int} {data : List Int} {s : State} {c : Cause}
    (h : requestFrame Config.insRead address data s = .error c) :
    readCommand form address data s = .next (s.deliver (.err c)) := by simp [readCommand, h]

/-- read is its request and then the response protocol (R104). -/
theorem readCommand_ok {form : PayloadForm} {address : Int} {data : List Int} {s : State} {f : List Byte}
    (h : requestFrame Config.insRead address data s = .ok f) (hc : writeContract f (s.answerWrite f) = true) :
    readCommand form address data s =
      match sendCause f.length (s.answerWrite f) with
      | some c => .next ((s.afterWrite f).deliver (.err c))
      | none => advances 5 { s.discard.afterWrite f with phase := .readHead, form := form } := by
  have hs : sendFrame { s.discard with txFrame := f, phase := .sendRequest, form := form } =
      .next (sendCause f.length (s.answerWrite f),
        { s.discard.afterWrite f with txFrame := [], phase := .sendRequest, form := form }) :=
    sendFrame_ok (s := { s.discard with txFrame := f, phase := .sendRequest, form := form }) hc
  simp only [readCommand, h, runSequencer, advances_succ 5, advance, phaseSendRequest, hs, andThen_next]
  cases sendCause f.length (s.answerWrite f) with
  | some c =>
    simp only [andThen_next, State.raise_eq, advances_deliver]
    rfl
  | none => rfl

/-- Everything read can do (R104). -/
theorem readCommand_next {form : PayloadForm} {address : Int} {data : List Int} {s t : State}
    (h : readCommand form address data s = .next t) :
    (∃ c, requestFrame Config.insRead address data s = .error c ∧ t = s.deliver (.err c)) ∨
      (∃ f, requestFrame Config.insRead address data s = .ok f ∧ writeContract f (s.answerWrite f) = true ∧
        ((∃ c, (c = .tWrite ∨ c = .shortWrite) ∧ sendCause f.length (s.answerWrite f) = some c ∧
            t = (s.afterWrite f).deliver (.err c)) ∨
          (sendCause f.length (s.answerWrite f) = none ∧
            Received form { s.discard.afterWrite f with phase := .readHead, form := form } t))) := by
  cases hr : requestFrame Config.insRead address data s with
  | error c =>
    rw [readCommand_error hr] at h
    exact .inl ⟨c, rfl, by cases h; rfl⟩
  | ok f =>
    refine .inr ⟨f, rfl, ?_⟩
    have hc : writeContract f (s.answerWrite f) = true := by
      simp only [readCommand, hr, runSequencer] at h
      rw [advances_succ] at h
      obtain ⟨x, hx, -⟩ := andThen_eq_next h
      obtain ⟨y, hy, -⟩ := andThen_eq_next hx
      exact (sendFrame_next hy).1
    rw [readCommand_ok hr hc] at h
    refine ⟨hc, ?_⟩
    rcases sendCause_outcome f (s.answerWrite f) with ⟨c, h1, -, h2⟩ | ⟨h1, -⟩
    · rw [h1] at h
      exact .inl ⟨c, h2, h1, by cases h; rfl⟩
    · rw [h1] at h
      exact .inr ⟨h1, received_of_readHead (s := { s.discard.afterWrite f with phase := .readHead, form := form }) rfl 0 h⟩

end Sys2Proof.Machine
end

