-- ==== Sys2Proof/Laws/Effect.lean ====
section
/-! SUPPORT. Everything an operation can do when it has a next state, said once: the relation `Effect`, and the lemma that `exec` keeps
to it. Facts about all operations are read off it by cases. -/

namespace Sys2Proof.Machine

/-- Diagnostics added, nothing else. -/
def State.noting (ds : List Diagnostic) (s : State) : State := { s with diagnostics := s.diagnostics ++ ds }

theorem State.noting_nil (s : State) : s.noting [] = s := by simp [State.noting]

theorem State.noteClamp_eq (s : State) (fd : ClampedField) (g u : Int) :
    s.noteClamp fd g u = s.noting (if g = u then [] else [.clamped fd g u]) := by
  by_cases h : g = u <;> simp [State.noteClamp, State.noting, h]

theorem State.noting_noting (s : State) (d e : List Diagnostic) : (s.noting d).noting e = s.noting (d ++ e) := by
  simp [State.noting]

/-- The operations that clamp. -/
def Clamps (i : Instr) : Prop := (∃ id a v, i = .servoMove id a v) ∨ ∃ id d, i = .calibrateServo id d

/-- A frame the builder can make, with this INS (R51, R59). -/
def IsFrame (ins : Byte) (f : List Byte) : Prop :=
  ∃ (adr : Byte) (data : List Byte), data.length ≤ 247 ∧ f = frameBytes (BitVec.ofNat 8 (data.length + 8)) ins adr data

/-- Transactions made and answers used up, nothing else. -/
def State.moved (es : List Event) (k m : Nat) (s : State) : State :=
  { s with trace := s.trace ++ es, writeAnswers := s.writeAnswers.drop k, readAnswers := s.readAnswers.drop m }

/-- A read in progress that goes on from a phase to the end of its operation: transactions `es`, answers used up, one outcome. -/
def Continued (s t : State) : Prop :=
  ∃ (es : List Event) (k m : Nat) (o : OpOutcome),
    t = (s.moved es k m).deliver o

/-- `Effect i s t`: what the operation `i` may make of `s`. -/
inductive Effect : Instr → State → State → Prop where
  /-- no transaction: a codec operation, or an error found before one is made -/
  | silent (i : Instr) (s : State) (ds : List Diagnostic) (o : OpOutcome) (hp : s.phase = .idle)
      (hi : i ≠ .openSession ∧ i ≠ .closeSession) (hd : ds = [] ∨ Clamps i)
      (ho : isCodec i = true ∨ ∃ c, o = .err c) : Effect i s ((s.noting ds).deliver o)
  | openOk (s : State) (hp : s.phase = .idle) (ha : s.answerOpen = .ok ()) :
      Effect .openSession s ({ s.afterOpen with session := .opened }.deliver (.ok .unit))
  | openErr (s : State) (e : TransportError) (hp : s.phase = .idle) (ha : s.answerOpen = .err e) :
      Effect .openSession s (s.afterOpen.deliver (.err .tOpen))
  | close (s : State) (hp : s.phase = .idle) :
      Effect .closeSession s ({ s.afterClose with session := .closed }.deliver (.ok .unit))
  /-- a write-type operation that wrote its frame -/
  | wrote (i : Instr) (s : State) (ds : List Diagnostic) (f : List Byte) (hp : s.phase = .idle) (hs : s.session = .opened)
      (hi : isWriteType i = true) (hf : IsFrame 0x01 f) (hc : writeContract f (s.answerWrite f) = true)
      (hd : ds = [] ∨ Clamps i) :
      Effect i s (((s.noting ds).afterWrite f).deliver (writeOutcome f (s.answerWrite f)))
  /-- a read-type operation whose request failed -/
  | unsent (i : Instr) (s : State) (f : List Byte) (c : Cause) (hp : s.phase = .idle) (hs : s.session = .opened)
      (hi : (readForm i).isSome = true) (hf : IsFrame 0x02 f) (hc : writeContract f (s.answerWrite f) = true)
      (hcause : c = .tWrite ∨ c = .shortWrite) :
      Effect i s ((s.afterWrite f).deliver (.err c))
  /-- a read-type operation whose request was sent -/
  | requested (i : Instr) (s t : State) (f : List Byte) (form : PayloadForm) (hp : s.phase = .idle) (hs : s.session = .opened)
      (hi : readForm i = some form) (hf : IsFrame 0x02 f) (hc : writeContract f (s.answerWrite f) = true)
      (hr : Received form { s.discard.afterWrite f with phase := .readHead, form := form } t) : Effect i s t
  /-- a response received on its own -/
  | alone (s t : State) (hp : s.phase = .idle) (hs : s.session = .opened)
      (hr : Received .raw { s.discard with phase := .readHead } t) : Effect .response s t
  /-- the rest of a read in progress -/
  | goesOn (s t : State) (hp : s.phase ≠ .idle) (hc : Continued s t) : Effect .response s t

/-! ## The parts -/

theorem isFrame_of_request {ins address : Int} {data : List Int} {s : State} {f : List Byte}
    (h : requestFrame ins address data s = .ok f) : IsFrame (toByte ins) f := by
  obtain ⟨hl, hf⟩ := requestFrame_frame h
  exact ⟨_, _, hl, hf⟩

theorem effect_writeCommand {i : Instr} {s t : State} {address : Int} {data : List Int} {ds : List Diagnostic}
    (hp : s.phase = .idle) (hi : isWriteType i = true) (hd : ds = [] ∨ Clamps i)
    (h : writeCommand address data (s.noting ds) = .next t) : Effect i s t := by
  rcases writeCommand_next h with ⟨c, -, rfl⟩ | ⟨f, hr, hc, rfl⟩
  · exact .silent i s ds _ hp (by constructor <;> (rintro rfl; simp [isWriteType] at hi)) hd (.inr ⟨c, rfl⟩)
  · exact .wrote i s ds f hp (requestFrame_ok hr).1 hi (isFrame_of_request hr) hc hd

theorem effect_readCommand {i : Instr} {s t : State} {address : Int} {data : List Int} {form : PayloadForm}
    (hp : s.phase = .idle) (hi : readForm i = some form) (h : readCommand form address data s = .next t) : Effect i s t := by
  rcases readCommand_next h with ⟨c, -, rfl⟩ | ⟨f, hr, hc, ⟨c, hcc, -, rfl⟩ | ⟨-, hrec⟩⟩
  · have e := Effect.silent i s [] (.err c) hp (by constructor <;> (rintro rfl; simp [readForm] at hi)) (.inl rfl) (.inr ⟨c, rfl⟩)
    rwa [State.noting_nil] at e
  · exact .unsent i s f c hp (requestFrame_ok hr).1 (by simp [hi]) (isFrame_of_request hr) hc hcc
  · exact .requested i s t f form hp (requestFrame_ok hr).1 hi (isFrame_of_request hr) hc hrec

theorem continued_deliver (s : State) (o : OpOutcome) : Continued s (s.deliver o) :=
  ⟨[], 0, 0, o, by simp [State.moved]⟩

/-- `Moved s es k m u`: between `s` and `u` the transport made the transactions `es`; the session, the outputs and the host are as in
`s`. -/
def Moved (s : State) (es : List Event) (k m : Nat) (u : State) : Prop :=
  u.session = s.session ∧ u.toTransport = (s.moved es k m).toTransport ∧ u.toOutputs = s.toOutputs ∧ u.toHostSide = s.toHostSide

theorem moved_refl (s : State) (u : State) (h1 : u.session = s.session) (h2 : u.toTransport = s.toTransport)
    (h3 : u.toOutputs = s.toOutputs) (h4 : u.toHostSide = s.toHostSide) : Moved s [] 0 0 u :=
  ⟨h1, by simp [State.moved, h2], h3, h4⟩

theorem continued_trans {s u t : State} {es : List Event} {k m : Nat} (hu : Moved s es k m u) (h : Continued u t) :
    Continued s t := by
  obtain ⟨fs, k', m', o, rfl⟩ := h
  obtain ⟨h1, h2, h3, h4⟩ := hu
  refine ⟨es ++ fs, k + k', m + m', o, ?_⟩
  simp [State.moved, State.deliver, State.discard, h1, h2, h3, h4, List.drop_drop]

/-- One transition: the operation ends, or the next phase is entered with the transactions made (R16). -/
theorem advance_cases {s t : State} (h : advance s = .next t) (hp : s.phase ≠ .idle) :
    ∃ (u : State) (es : List Event) (k m : Nat),
      Moved s es k m u ∧ ((∃ o, t = u.deliver o) ∨ (t = u ∧ t.phase.position = s.phase.position + 1)) := by
  have stay : ∀ u : State, u.session = s.session → u.toTransport = s.toTransport → u.toOutputs = s.toOutputs →
      u.toHostSide = s.toHostSide → Moved s [] 0 0 u := moved_refl s
  have sent : Moved s [.tWrite s.txFrame (s.answerWrite s.txFrame)] 1 0 (s.afterWrite s.txFrame) :=
    ⟨rfl, by simp [State.moved, State.afterWrite], rfl, rfl⟩
  have got : ∀ n, Moved s [.tRead n 1 (s.answerRead n 1)] 0 1 (s.afterRead n 1) :=
    fun n => ⟨rfl, by simp [State.moved, State.afterRead], rfl, rfl⟩
  unfold advance at h
  split at h
  · contradiction
  · next hs =>
    obtain ⟨⟨c, u⟩, hu, ht⟩ := andThen_eq_next h
    obtain ⟨-, hx⟩ := sendFrame_next hu
    cases hx
    cases hc : sendCause s.txFrame.length (s.answerWrite s.txFrame) with
    | some c =>
      rw [hc] at ht
      cases ht
      exact ⟨s.afterWrite s.txFrame, [.tWrite s.txFrame (s.answerWrite s.txFrame)], 1, 0,
        sent, .inl ⟨_, rfl⟩⟩
    | none =>
      rw [hc] at ht
      cases ht
      exact ⟨{ s.afterWrite s.txFrame with phase := .readHead, txFrame := [] }, [.tWrite s.txFrame (s.answerWrite s.txFrame)],
        1, 0, sent, .inr ⟨rfl, by rw [hs]; rfl⟩⟩
  · next hs =>
    obtain ⟨⟨a, u⟩, hu, ht⟩ := andThen_eq_next h
    obtain ⟨-, hx⟩ := tRead_next hu
    cases hx
    simp only at ht
    split at ht
    · cases ht
      exact ⟨s.afterRead 3 1, [.tRead 3 1 (s.answerRead 3 1)], 0, 1, got _, .inl ⟨_, rfl⟩⟩
    · split at ht
      · cases ht
        exact ⟨s.afterRead 3 1, [.tRead 3 1 (s.answerRead 3 1)], 0, 1, got _, .inl ⟨_, rfl⟩⟩
      · cases ht
        exact ⟨_, [.tRead 3 1 (s.answerRead 3 1)], 0, 1, by exact got _, .inr ⟨rfl, by rw [hs]; rfl⟩⟩
  · next hs =>
    unfold phaseCheckHead at h
    split at h
    · cases h
      exact ⟨s, [], 0, 0, stay s rfl rfl rfl rfl, .inl ⟨_, rfl⟩⟩
    · split at h
      · cases h
        exact ⟨s, [], 0, 0, stay s rfl rfl rfl rfl, .inl ⟨_, rfl⟩⟩
      · cases h
        exact ⟨_, [], 0, 0, by exact stay _ rfl rfl rfl rfl, .inr ⟨rfl, by rw [hs]; rfl⟩⟩
  · next hs =>
    obtain ⟨⟨a, u⟩, hu, ht⟩ := andThen_eq_next h
    obtain ⟨-, hx⟩ := tRead_next hu
    cases hx
    simp only at ht
    split at ht
    · cases ht
      exact ⟨s.afterRead (s.rxLen - 3) 1, [.tRead (s.rxLen - 3) 1 (s.answerRead (s.rxLen - 3) 1)], 0, 1, got _, .inl ⟨_, rfl⟩⟩
    · split at ht
      · cases ht
        exact ⟨s.afterRead (s.rxLen - 3) 1, [.tRead (s.rxLen - 3) 1 (s.answerRead (s.rxLen - 3) 1)], 0, 1, got _, .inl ⟨_, rfl⟩⟩
      · cases ht
        exact ⟨_, [.tRead (s.rxLen - 3) 1 (s.answerRead (s.rxLen - 3) 1)], 0, 1, by exact got _, .inr ⟨rfl, by rw [hs]; rfl⟩⟩
  · next hs =>
    unfold phaseCheckTail at h
    split at h
    · cases h
      exact ⟨s, [], 0, 0, stay s rfl rfl rfl rfl, .inl ⟨_, rfl⟩⟩
    · cases h
      exact ⟨_, [], 0, 0, by exact stay _ rfl rfl rfl rfl, .inr ⟨rfl, by rw [hs]; rfl⟩⟩
  · next hs =>
    cases h
    exact ⟨s, [], 0, 0, stay s rfl rfl rfl rfl, .inl ⟨_, rfl⟩⟩

/-- Six transitions reach the end of the operation from any phase. -/
theorem continued_of_advances {k : Nat} {s t : State} (hp : s.phase ≠ .idle) (hk : 7 ≤ s.phase.position + k)
    (h : advances k s = .next t) : Continued s t := by
  induction k generalizing s with
  | zero =>
    have : s.phase.position ≤ 6 := by cases s.phase <;> decide
    omega
  | succ k ih =>
    obtain ⟨x, hx, ht⟩ := andThen_eq_next h
    obtain ⟨u, es, n, m, hu, ⟨o, rfl⟩ | ⟨rfl, hpos⟩⟩ := advance_cases hx hp
    · rw [advances_deliver] at ht
      cases ht
      exact continued_trans hu (continued_deliver u o)
    · exact continued_trans hu (ih (by intro he; rw [he] at hpos; simp [Phase.position] at hpos) (by omega) ht)

/-- `exec` keeps to `Effect`. -/
theorem exec_effect {i : Instr} {s t : State} (h : exec i s = .next t) : Effect i s t := by
  have quiet : ∀ (j : Instr) (o : OpOutcome), s.phase = .idle → j ≠ .openSession → j ≠ .closeSession →
      (isCodec j = true ∨ ∃ c, o = .err c) → Effect j s (s.deliver o) := by
    intro j o hp h1 h2 ho
    have e := Effect.silent j s [] o hp ⟨h1, h2⟩ (.inl rfl) ho
    rwa [State.noting_nil] at e
  have pure : ∀ (j : Instr) (α : Type) (r : Except Cause α) (w : α → Value), isCodec j = true →
      hostOperation (fun s => .next (finish r w s)) s = .next t → Effect j s t := by
    intro j α r w hj hr
    obtain ⟨hp, hb⟩ := hostOperation_next hr
    cases hb
    have hne : j ≠ .openSession ∧ j ≠ .closeSession := by constructor <;> (rintro rfl; simp [isCodec] at hj)
    cases r with
    | ok v => exact quiet j _ hp hne.1 hne.2 (.inl hj)
    | error c => exact quiet j _ hp hne.1 hne.2 (.inl hj)
  have wr : ∀ (j : Instr) (address : Int) (data : List Int), isWriteType j = true →
      hostOperation (writeCommand address data) s = .next t → Effect j s t := by
    intro j address data hj hr
    obtain ⟨hp, hb⟩ := hostOperation_next hr
    exact effect_writeCommand hp hj (.inl rfl) (by rwa [State.noting_nil])
  have rd : ∀ (j : Instr) (form : PayloadForm) (address : Int) (data : List Int), readForm j = some form →
      hostOperation (readCommand form address data) s = .next t → Effect j s t := by
    intro j form address data hj hr
    obtain ⟨hp, hb⟩ := hostOperation_next hr
    exact effect_readCommand hp hj hb
  cases i with
  | checksum payload => exact pure _ _ _ _ rfl h
  | buildFrame instruction address data => exact pure _ _ _ _ rfl h
  | packUint16BE value => exact pure _ _ _ _ rfl h
  | unpackUint16BE bytes => exact pure _ _ _ _ rfl h
  | openSession =>
    have h' : execOpenSession s = .next t := h
    unfold execOpenSession at h'
    obtain ⟨hp, hb⟩ := hostOperation_next h'
    cases ha : s.answerOpen with
    | ok u =>
      simp only [tOpen, ha] at hb
      cases hb
      exact .openOk s hp ha
    | err e =>
      simp only [tOpen, ha] at hb
      cases hb
      exact .openErr s e hp ha
  | closeSession =>
    have h' : execCloseSession s = .next t := h
    unfold execCloseSession at h'
    obtain ⟨hp, hb⟩ := hostOperation_next h'
    cases hb
    exact .close s hp
  | write address data => exact wr _ _ _ rfl h
  | read address data => exact rd _ _ _ _ rfl h
  | torqueOn => exact wr _ _ _ rfl h
  | torqueOff => exact wr _ _ _ rfl h
  | servoMove servoId angle speed =>
    have h' : execServoMove servoId angle speed s = .next t := h
    unfold execServoMove at h'
    obtain ⟨hp, hb⟩ := hostOperation_next h'
    by_cases hid : (!servoIdLegal servoId) = true
    · simp only [if_pos hid] at hb
      cases hb
      exact quiet _ _ hp (by simp) (by simp) (.inr ⟨_, rfl⟩)
    · have hv := clampSpeed_mem speed
      simp only [if_neg hid, packUint16BE_ok hv.1 hv.2, State.noteClamp_eq, State.noting_noting] at hb
      exact effect_writeCommand hp rfl (.inr (.inl ⟨_, _, _, rfl⟩)) hb
  | readServoAngle servoId =>
    have h' : execReadServoAngle servoId s = .next t := h
    unfold execReadServoAngle at h'
    obtain ⟨hp, hb⟩ := hostOperation_next h'
    by_cases hid : (!servoIdLegal servoId) = true
    · simp only [if_pos hid] at hb
      cases hb
      exact quiet _ _ hp (by simp) (by simp) (.inr ⟨_, rfl⟩)
    · simp only [if_neg hid] at hb
      exact effect_readCommand hp rfl hb
  | calibrateServo servoId deviation =>
    have h' : execCalibrateServo servoId deviation s = .next t := h
    unfold execCalibrateServo at h'
    obtain ⟨hp, hb⟩ := hostOperation_next h'
    by_cases hid : (!servoIdLegal servoId) = true
    · simp only [if_pos hid] at hb
      cases hb
      exact quiet _ _ hp (by simp) (by simp) (.inr ⟨_, rfl⟩)
    · have hv := clampDeviation_mem deviation
      simp only [if_neg hid, packUint16BE_ok hv.1 hv.2, State.noteClamp_eq] at hb
      exact effect_writeCommand hp rfl (.inr (.inr ⟨_, _, rfl⟩)) hb
  | readBatteryLevel => exact rd _ _ _ _ rfl h
  | readRawImuAngle => exact rd _ _ _ _ rfl h
  | readImuAngle => exact rd _ _ _ _ rfl h
  | getImuAngle => exact rd _ _ _ _ rfl h
  | getRawImuData => exact rd _ _ _ _ rfl h
  | response =>
    have h' : execResponse s = .next t := h
    unfold execResponse at h'
    split at h'
    · next hp =>
      split at h'
      · cases h'
        exact quiet _ _ hp (by simp) (by simp) (.inr ⟨_, rfl⟩)
      · next hs =>
        exact .alone s t hp hs (received_of_readHead (s := { s.discard with phase := .readHead }) rfl 1 h')
    · next hp =>
      have hne : s.phase ≠ .idle := by intro he; exact hp he
      refine .goesOn s t hne (continued_of_advances hne ?_ h')
      have : 1 ≤ s.phase.position := by
        revert hne
        cases s.phase <;> simp [Phase.position]
      omega

end Sys2Proof.Machine
end

