-- ==== Sys2Proof/Laws/PerInstr.lean ====
section
/-! SUPPORT. The family EncodedFrame: the encoder makes well-formed frames only (30_encoding.md R60), one lemma per constructor. -/

namespace Sys2Proof.Laws

open Machine

/-- A built frame with at most 247 DATA bytes is well formed (R59, R60). -/
theorem wireFrame_wellFormed (ins adr : Byte) {data : List Byte} (h : data.length ≤ 247) :
    frameWellFormed (wireFrame ins adr data) = true := frameBytes_wellFormed ins adr h

/-- An ill-formed instruction has no frame. -/
theorem wellFormed_of_encode {i : Instr} {f : List Byte} (h : encode i = some f) : i.wellFormed = true := by
  unfold encode at h
  split at h
  · cases h
  · next hw => simpa using hw

namespace EncodedFrame

/-- The frame of `i`, if it has one, is well formed. -/
def Statement (i : Instr) : Prop := ∀ f, encode i = some f → frameWellFormed f = true

/-- An instruction without a frame. -/
theorem none_statement {i : Instr} (h : encode i = none) : Statement i := by
  intro f hf
  rw [h] at hf
  cases hf

/-- An instruction whose frame is this one, when it is well formed. -/
theorem some_statement {i : Instr} {ins adr : Byte} {data : List Byte} (hl : i.wellFormed = true → data.length ≤ 247)
    (h : i.wellFormed = true → encode i = some (wireFrame ins adr data)) : Statement i := by
  intro f hf
  have hw := wellFormed_of_encode hf
  rw [h hw] at hf
  cases hf
  exact wireFrame_wellFormed ins adr (hl hw)

/-- The length check of the operands `data`. -/
theorem data_le {n : Nat} {b : Bool} (h : (b && decide (n ≤ maxEncodable)) = true) : n ≤ 247 := by
  simp only [Bool.and_eq_true, decide_eq_true_eq] at h
  exact h.2

theorem checksum (payload : List Byte) : Statement (.checksum payload) :=
  none_statement (by simp [encode])

theorem buildFrame (instruction : Int) (address : Int) (data : List Byte) : Statement (.buildFrame instruction address data) :=
  some_statement (fun h => data_le h) (fun h => by simp only [encode, h]; rfl)

theorem packUint16BE (value : Int) : Statement (.packUint16BE value) :=
  none_statement (by simp [encode])

theorem unpackUint16BE (bytes : List Byte) : Statement (.unpackUint16BE bytes) :=
  none_statement (by simp [encode])

theorem openSession : Statement (.openSession) :=
  none_statement (by simp [encode])

theorem closeSession : Statement (.closeSession) :=
  none_statement (by simp [encode])

theorem write (address : Int) (data : List Int) : Statement (.write address data) :=
  some_statement (data := data.map toByte) (fun h => by simpa using data_le h) (fun h => by simp only [encode, h]; rfl)

theorem read (address : Int) (data : List Int) : Statement (.read address data) :=
  some_statement (data := data.map toByte) (fun h => by simpa using data_le h) (fun h => by simp only [encode, h]; rfl)

theorem torqueOn : Statement (.torqueOn) :=
  some_statement (data := [_]) (fun _ => by simp) (fun _ => rfl)

theorem torqueOff : Statement (.torqueOff) :=
  some_statement (data := [_]) (fun _ => by simp) (fun _ => rfl)

theorem servoMove (servoId : Int) (angle : Int) (speed : Int) : Statement (.servoMove servoId angle speed) :=
  some_statement (data := toByte servoId :: toByte (clampAngle angle) :: wordField (clampSpeed speed))
    (fun _ => by simp [wordField]) (fun h => by simp only [encode, h]; rfl)

theorem readServoAngle (servoId : Int) : Statement (.readServoAngle servoId) :=
  some_statement (data := [toByte servoId]) (fun _ => by simp) (fun h => by simp only [encode, h]; rfl)

theorem calibrateServo (servoId : Int) (deviation : Int) : Statement (.calibrateServo servoId deviation) :=
  some_statement (data := toByte servoId :: wordField (clampDeviation deviation))
    (fun _ => by simp [wordField]) (fun h => by simp only [encode, h]; rfl)

theorem readBatteryLevel : Statement (.readBatteryLevel) :=
  some_statement (data := [_]) (fun _ => by simp) (fun _ => rfl)

theorem readRawImuAngle : Statement (.readRawImuAngle) :=
  some_statement (data := [_]) (fun _ => by simp) (fun _ => rfl)

theorem readImuAngle : Statement (.readImuAngle) :=
  some_statement (data := [_]) (fun _ => by simp) (fun _ => rfl)

theorem getImuAngle : Statement (.getImuAngle) :=
  some_statement (data := [_]) (fun _ => by simp) (fun _ => rfl)

theorem getRawImuData : Statement (.getRawImuData) :=
  some_statement (data := [_]) (fun _ => by simp) (fun _ => rfl)

theorem response : Statement (.response) :=
  none_statement (by simp [encode])

end EncodedFrame

end Sys2Proof.Laws
end

