-- ==== Sys2Proof/Tests/Slice0.lean ====
section
/-! SUPPORT. The model's own tests. Words and results are written out from spec/, mostly from 95_test_vectors.md (sections named at
each group), never from the model. -/

namespace Sys2Proof.Tests

open Sys2Proof Sys2Proof.Machine

/-- The outcome of one executed instruction, if it has a next state. -/
def outcomeOf (r : Result State) : Option OpOutcome :=
  match r with
  | .next t => t.resultPort
  | .fault _ => none
  | .refused _ => none

/-- A view of the next state, if there is one. -/
def view {α : Type} (f : State → α) (r : Result State) : Option α :=
  match r with
  | .next t => some (f t)
  | .fault _ => none
  | .refused _ => none

/-- Why an instruction has no next state. -/
def refusalOf (r : Result State) : Option Refusal :=
  match r with
  | .next _ => none
  | .fault _ => none
  | .refused x => some x

/-- An open session whose transport will give these answers. -/
def opened (writes : List (Answer Nat)) (reads : List (Answer (List Byte))) : State :=
  { State.reset with session := .opened, writeAnswers := writes, readAnswers := reads }

/-- In an open session: the write of a 9-byte request succeeds, then these bytes answer the two reads. -/
def answering (head body : List Byte) : State := opened [.ok 9] [.ok head, .ok body]

/-- A read in progress that waits for its header. -/
def reading (reads : List (Answer (List Byte))) : State := { opened [] reads with phase := .readHead }

/-- The device error 7. -/
def err7 : TransportError := { code := 7 }

/-! ## WellFormed: each check refuses an ill-formed term (10_state.md R13; 30_encoding.md R59) -/

theorem test_illFormed_checksum_empty : Instr.wellFormed (.checksum []) = false := by decide

theorem test_illFormed_buildFrame_instruction : Instr.wellFormed (.buildFrame 256 0 []) = false := by decide

theorem test_illFormed_buildFrame_address : Instr.wellFormed (.buildFrame 0 (-1) []) = false := by decide

theorem test_illFormed_buildFrame_length : Instr.wellFormed (.buildFrame 1 0 (List.replicate 248 0)) = false := by decide +kernel

theorem test_illFormed_packUint16BE_value : Instr.wellFormed (.packUint16BE 65536) = false := by decide

theorem test_illFormed_unpackUint16BE_length : Instr.wellFormed (.unpackUint16BE [0x12]) = false := by decide

theorem test_illFormed_write_address : Instr.wellFormed (.write 256 []) = false := by decide

theorem test_illFormed_write_element : Instr.wellFormed (.write 0x10 [-1]) = false := by decide

theorem test_illFormed_write_length : Instr.wellFormed (.write 0 (List.replicate 248 0)) = false := by decide +kernel

theorem test_illFormed_read_address : Instr.wellFormed (.read (-1) []) = false := by decide

theorem test_illFormed_read_element : Instr.wellFormed (.read 0x10 [256]) = false := by decide

theorem test_illFormed_read_length : Instr.wellFormed (.read 0 (List.replicate 248 0)) = false := by decide +kernel

theorem test_illFormed_servoMove_id : Instr.wellFormed (.servoMove 19 90 400) = false := by decide

theorem test_illFormed_readServoAngle_id : Instr.wellFormed (.readServoAngle 0) = false := by decide

theorem test_illFormed_calibrateServo_id : Instr.wellFormed (.calibrateServo 0 5) = false := by decide

/-- Clamped operands have no range check (R118). -/
theorem test_wellFormed_servoMove_any_angle : Instr.wellFormed (.servoMove 18 200 (-5)) = true := by decide

/-! ## Decoding: words written out from R51 and R62 (95_test_vectors.md sections 2.2, 3) -/

theorem test_decode_torqueOn : (decode [0x55, 0x00, 0x09, 0x01, 0x26, 0x00, 0xCF, 0x00, 0xAA]).toOption = some (.torqueOn, []) := by decide

theorem test_decode_torqueOff : (decode [0x55, 0x00, 0x09, 0x01, 0x27, 0x00, 0xCE, 0x00, 0xAA]).toOption = some (.torqueOff, []) := by decide

theorem test_decode_servoMove : (decode [0x55, 0x00, 0x0C, 0x01, 0x40, 0x05, 0x5A, 0x01, 0x90, 0xC2, 0x00, 0xAA]).toOption = some (.servoMove 5 90 400, []) := by decide

theorem test_decode_calibrateServo : (decode [0x55, 0x00, 0x0B, 0x01, 0x28, 0x12, 0xFF, 0xFF, 0xBB, 0x00, 0xAA]).toOption = some (.calibrateServo 18 65535, []) := by decide

theorem test_decode_readServoAngle : (decode [0x55, 0x00, 0x09, 0x02, 0x50, 0x05, 0x9F, 0x00, 0xAA]).toOption = some (.readServoAngle 5, []) := by decide

theorem test_decode_readBatteryLevel : (decode [0x55, 0x00, 0x09, 0x02, 0x01, 0x01, 0xF2, 0x00, 0xAA]).toOption = some (.readBatteryLevel, []) := by decide

theorem test_decode_readImuAngle_and_getImuAngle : (decode [0x55, 0x00, 0x09, 0x02, 0x60, 0x07, 0x8D, 0x00, 0xAA]).toOption = some (.readImuAngle, []) := by decide

theorem test_decode_readRawImuAngle_and_getRawImuData : (decode [0x55, 0x00, 0x09, 0x02, 0x61, 0x12, 0x81, 0x00, 0xAA]).toOption = some (.readRawImuAngle, []) := by decide

theorem test_decode_write : (decode [0x55, 0x00, 0x0B, 0x01, 0x10, 0x01, 0x02, 0x03, 0xDD, 0x00, 0xAA]).toOption = some (.write 0x10 [1, 2, 3], []) := by decide

theorem test_decode_read : (decode [0x55, 0x00, 0x09, 0x02, 0xFF, 0xFF, 0xF6, 0x00, 0xAA]).toOption = some (.read 0xFF [0xFF], []) := by decide

theorem test_decode_buildFrame : (decode [0x55, 0x00, 0x08, 0x12, 0x01, 0xE4, 0x00, 0xAA]).toOption = some (.buildFrame 0x12 0x01 [], []) := by decide

theorem test_decode_leaves_the_rest :
    (decode [0x55, 0x00, 0x08, 0x01, 0x10, 0xE6, 0x00, 0xAA, 0x55, 0x00]).toOption = some (.write 0x10 [], [0x55, 0x00]) := by decide

theorem test_decode_response : (decodeReceived [0x55, 0x00, 0x09, 0x12, 0x01, 0x4B, 0x98, 0x00, 0xAA]).toOption = some .response := by
  decide

/-- Refusals by name, and the printed example of the source's section 8 read with LEN = n + 8 (conflict C2). -/
theorem test_decode_refusals :
    decode [0x55, 0x00] = .error .tooShort ∧
    decode [0x55, 0x01, 0x09, 0x01, 0x26, 0x00, 0xCF, 0x00, 0xAA] = .error .badHeader ∧
    decode [0x55, 0x00, 0x05, 0x01, 0x26, 0x00, 0xD3, 0x00, 0xAA] = .error .badLength ∧
    decode [0x55, 0x00, 0x09, 0x01, 0x26, 0x00, 0xCF, 0x00] = .error .truncated ∧
    decode [0x55, 0x00, 0x09, 0x01, 0x26, 0x00, 0xCF, 0x01, 0xAA] = .error .badTail ∧
    decode [0x55, 0x00, 0x09, 0x01, 0x26, 0x00, 0xCE, 0x00, 0xAA] = .error .badChecksum :=
  ⟨rfl, rfl, rfl, rfl, rfl, rfl⟩

/-- A servo id outside 1..18 is in no frame of servoMove (R114): the frame is a generic write. -/
theorem test_decode_servoMove_id_19 :
    (decode [0x55, 0x00, 0x0C, 0x01, 0x40, 0x13, 0x5A, 0x01, 0x90, 0xB4, 0x00, 0xAA]).toOption =
      some (.write 0x40 [19, 90, 1, 144], []) := by decide

/-! ## Words of opcode_table.json (R70; log 17) -/

theorem test_tableWords : [0x5500000100, 0x5500000200, 0x5500090126, 0x5500090127, 0x55000C0140, 0x5500090250, 0x55000B0128, 0x5500090201, 0x5500090261, 0x5500090260, 0x5500000000].map (decodeTableWord 40) =
    [some (.write 0 []), some (.read 0 []), some (.torqueOn), some (.torqueOff), some (.servoMove 1 0 0), some (.readServoAngle 1), some (.calibrateServo 1 0), some (.readBatteryLevel), some (.readRawImuAngle), some (.readImuAngle), some (.buildFrame 0 0 [])] := by
  decide +kernel

theorem test_tableWord_response : decodeTableWord 16 0x5500 = some .response := by decide +kernel

theorem test_tableWord_whole_frame : decodeTableWord 72 0x550009012600CF00AA = some .torqueOn := by decide +kernel

/-- The first instruction after reset: no transfer passes the gate (R100, R180). -/
theorem test_step_tableWord : outcomeOf (step (State.reset.withFetchWord 40 0x5500090126)) = some (.err .notOpen) ∧
    outcomeOf (step (State.reset.withFetchWord 16 0x5500)) = some (.err .notOpen) := by decide +kernel

/-! ## One step of each instruction (95_test_vectors.md sections 2, 3, 4, 5, 6) -/

/-- S3 -/
theorem test_checksum_wraps :
    outcomeOf (exec (.checksum [0xFF, 0xFF, 0x01]) State.reset) =
      some (.ok (.byte 0)) := by decide

theorem test_checksum_empty :
    outcomeOf (exec (.checksum []) State.reset) =
      some (.err .emptyPayload) := by decide

/-- S5 with LEN = n + 8 -/
theorem test_buildFrame :
    outcomeOf (exec (.buildFrame 0x01 0x40 [5, 90, 0x01, 0x90]) State.reset) =
      some (.ok (.bytes [0x55, 0x00, 0x0C, 0x01, 0x40, 0x05, 0x5A, 0x01, 0x90, 0xC2, 0x00, 0xAA])) := by decide

theorem test_buildFrame_overflow :
    outcomeOf (exec (.buildFrame 0x01 0x00 (List.replicate 248 0)) State.reset) =
      some (.err .lenOverflow) := by decide +kernel

theorem test_packUint16BE :
    outcomeOf (exec (.packUint16BE 4660) State.reset) =
      some (.ok (.bytes [0x12, 0x34])) := by decide

theorem test_packUint16BE_range :
    outcomeOf (exec (.packUint16BE (-1)) State.reset) =
      some (.err .u16Range) := by decide

/-- unsigned -/
theorem test_unpackUint16BE :
    outcomeOf (exec (.unpackUint16BE [0x80, 0x00]) State.reset) =
      some (.ok (.u16 32768)) := by decide

theorem test_unpackUint16BE_length :
    outcomeOf (exec (.unpackUint16BE [0x12, 0x34, 0x56]) State.reset) =
      some (.err .u16Len) := by decide

/-- R101: a failed open in an open session leaves it open. -/
theorem test_open_failed_stays_open :
    view (fun t => (t.session, t.resultPort, t.trace))
      (exec .openSession { State.reset with session := .opened, openAnswers := [.err err7] }) =
      some (.opened, some (.err .tOpen), [.tOpen (.err err7)]) := by decide

theorem test_open :
    view (fun t => (t.session, t.resultPort)) (exec .openSession { State.reset with openAnswers := [.ok ()] }) =
      some (.opened, some (.ok .unit)) := by decide

/-- R102: the error inside close is seen by no outcome. -/
theorem test_close :
    view (fun t => (t.session, t.resultPort, t.trace))
      (exec .closeSession { State.reset with session := .opened, closeAnswers := [some err7] }) =
      some (.closed, some (.ok .unit), [.tClose]) := by decide

theorem test_write :
    view (fun t => (t.trace, t.resultPort)) (exec (.write 0x10 [1, 2, 3]) (opened [.ok 11] [])) =
      some ([.tWrite [0x55, 0x00, 0x0B, 0x01, 0x10, 0x01, 0x02, 0x03, 0xDD, 0x00, 0xAA] (.ok 11)], some (.ok .unit)) := by decide

theorem test_write_element_before_address :
    outcomeOf (exec (.write 300 [256]) (opened [] [])) =
      some (.err .dataByte) := by decide

theorem test_torqueOn :
    view (fun t => (t.trace, t.resultPort)) (exec .torqueOn (opened [.ok 9] [])) =
      some ([.tWrite [0x55, 0x00, 0x09, 0x01, 0x26, 0x00, 0xCF, 0x00, 0xAA] (.ok 9)], some (.ok .unit)) := by decide

theorem test_torqueOff :
    view (fun t => (t.trace, t.resultPort)) (exec .torqueOff (opened [.ok 9] [])) =
      some ([.tWrite [0x55, 0x00, 0x09, 0x01, 0x27, 0x00, 0xCE, 0x00, 0xAA] (.ok 9)], some (.ok .unit)) := by decide

theorem test_torqueOff_transport_error :
    view (fun t => (t.session, t.resultPort)) (exec .torqueOff (opened [.err err7] [])) = some (.opened, some (.err .tWrite)) := by decide

/-- S7: both operands are clamped. -/
theorem test_servoMove_clamps :
    view (fun t => (t.trace, t.diagnostics)) (exec (.servoMove 1 200 70000) (opened [.ok 12] [])) =
      some ([.tWrite [0x55, 0x00, 0x0C, 0x01, 0x40, 0x01, 0xB4, 0xFF, 0xFF, 0xFF, 0x00, 0xAA] (.ok 12)],
        [.clamped .angle 200 180, .clamped .speed 70000 65535]) := by decide

theorem test_servoMove_id_before_gate :
    outcomeOf (exec (.servoMove 0 0 0) State.reset) =
      some (.err .servoId) := by decide

theorem test_calibrateServo_negative :
    view (fun t => (t.trace, t.resultPort)) (exec (.calibrateServo 2 (-1)) (opened [.ok 11] [])) =
      some ([.tWrite [0x55, 0x00, 0x0B, 0x01, 0x28, 0x02, 0x00, 0x00, 0xC9, 0x00, 0xAA] (.ok 11)], some (.ok .unit)) := by decide

theorem test_calibrateServo_id :
    outcomeOf (exec (.calibrateServo 19 5) (opened [] [])) =
      some (.err .servoId) := by decide

theorem test_read :
    view (fun t => (t.trace, t.resultPort)) (exec (.read 0xFF [0xFF]) (answering [0x55, 0x00, 0x09] [0x12, 0x01, 0x4B, 0x98, 0x00, 0xAA])) =
      some ([.tWrite [0x55, 0x00, 0x09, 0x02, 0xFF, 0xFF, 0xF6, 0x00, 0xAA] (.ok 9), .tRead 3 1 (.ok [0x55, 0x00, 0x09]),
          .tRead 6 1 (.ok [0x12, 0x01, 0x4B, 0x98, 0x00, 0xAA])],
        some (.ok (.bytes [0x4B]))) := by decide

theorem test_read_address :
    outcomeOf (exec (.read (-1) []) (opened [] [])) =
      some (.err .adrRange) := by decide

/-- program P2, operation 5 -/
theorem test_readServoAngle :
    outcomeOf (exec (.readServoAngle 5) (answering [0x55, 0x00, 0x0A] [0x12, 0x50, 0x05, 0x5A, 0x34, 0x00, 0xAA])) =
      some (.ok (.bytes [0x05, 0x5A])) := by decide

theorem test_readServoAngle_bad_tail :
    outcomeOf (exec (.readServoAngle 1) (answering [0x55, 0x00, 0x09] [0x12, 0x01, 0x4B, 0x98, 0x01, 0xAA])) =
      some (.err .tailBad) := by decide

/-- wrong INS, ADR and CHK are accepted -/
theorem test_readBatteryLevel_unchecked_fields :
    outcomeOf (exec .readBatteryLevel (answering [0x55, 0x00, 0x09] [0x02, 0x77, 0x4B, 0x00, 0x00, 0xAA])) =
      some (.ok (.bytes [0x4B])) := by decide

theorem test_readBatteryLevel_short_body :
    outcomeOf (exec .readBatteryLevel (answering [0x55, 0x00, 0x09] [0x12, 0x01, 0x4B, 0x98, 0x00])) =
      some (.err .bodyShort) := by decide

/-- S9 -/
theorem test_readRawImuAngle_header_short :
    outcomeOf (exec .readRawImuAngle (opened [.ok 9] [.ok [0x55, 0x00]])) =
      some (.err .hdrShort) := by decide

/-- the shortest accepted frame -/
theorem test_readRawImuAngle_shortest :
    outcomeOf (exec .readRawImuAngle (answering [0x55, 0x00, 0x05] [0x00, 0xAA])) =
      some (.ok (.bytes [])) := by decide

theorem test_readImuAngle_no_length_check :
    outcomeOf (exec .readImuAngle (answering [0x55, 0x00, 0x0E] [0x12, 0x60, 0x00, 0x01, 0x00, 0x02, 0x00, 0x03, 0x79, 0x00, 0xAA])) =
      some (.ok (.bytes [0x00, 0x01, 0x00, 0x02, 0x00, 0x03])) := by decide

/-- S9 -/
theorem test_readImuAngle_header_bad :
    outcomeOf (exec .readImuAngle (opened [.ok 9] [.ok [0x55, 0x01, 0x09]])) =
      some (.err .hdrBad) := by decide

theorem test_getImuAngle :
    outcomeOf (exec .getImuAngle (answering [0x55, 0x00, 0x0F] [0x12, 0x60, 0xFF, 0xFF, 0x80, 0x00, 0x00, 0xFF, 0xFF, 0x02, 0x00, 0xAA])) =
      some (.ok (.imuAngle { roll := 65535, pitch := 32768, yaw := 255, temperature := 255 })) := by decide

/-- S8 -/
theorem test_getImuAngle_six_bytes :
    outcomeOf (exec .getImuAngle (answering [0x55, 0x00, 0x0E] [0x12, 0x60, 0x00, 0x01, 0x00, 0x02, 0x00, 0x03, 0x79, 0x00, 0xAA])) =
      some (.err .payloadLen) := by decide

theorem test_getRawImuData :
    outcomeOf (exec .getRawImuData (answering [0x55, 0x00, 0x1A] [0x12, 0x61, 0x01, 0x02, 0x03, 0x04, 0x05, 0x06, 0x07, 0x08, 0x09, 0x0A, 0x0B, 0x0C, 0x0D, 0x0E, 0x0F, 0x10, 0xFF, 0xFE, 0xED, 0x00, 0xAA])) =
      some (.ok (.rawImu { accelX := 258, accelY := 772, accelZ := 1286, gyroX := 1800, gyroY := 2314, gyroZ := 2828, magX := 3342, magY := 3856, magZ := 65534 })) := by decide

theorem test_getRawImuData_seventeen_bytes :
    outcomeOf (exec .getRawImuData (answering [0x55, 0x00, 0x19] [0x12, 0x61, 0x01, 0x02, 0x03, 0x04, 0x05, 0x06, 0x07, 0x08, 0x09, 0x0A, 0x0B, 0x0C, 0x0D, 0x0E, 0x0F, 0x10, 0x11, 0xDA, 0x00, 0xAA])) =
      some (.err .payloadLen) := by decide

theorem test_response_length_bad :
    outcomeOf (exec .response (reading [.ok [0x55, 0x00, 0x04]])) =
      some (.err .lenBad) := by decide

theorem test_response_own_frame_looped_back :
    outcomeOf (exec .response (opened [] [.ok [0x55, 0x00, 0x09], .ok [0x01, 0x26, 0x00, 0xCF, 0x00, 0xAA]])) =
      some (.ok (.bytes [0x00])) := by decide

/-! ## Witnesses: states and operands that meet the hypotheses of the statements, at the bounds of each clause -/

/-- The answer 9 to a request, then a 9-byte response. -/
def answered : State := answering [0x55, 0x00, 0x09] [0x12, 0x01, 0x4B, 0x98, 0x00, 0xAA]

theorem witness_ChecksumReturnsComplementOfSum : State.reset.atRest = true ∧ ([0x00] : List Byte) ≠ [] := by decide

theorem witness_BuildFrameReturnsFrameOrError : State.reset.atRest = true := by decide

/-- The cause of an error. -/
def errorOf {α : Type} (r : Except Cause α) : Option Cause :=
  match r with
  | .ok _ => none
  | .error c => some c

/-- The checks of buildFrame at their bounds, in their order (R81, R87). -/
theorem witness_BuildFrame_bounds :
    (buildFrame 255 255 (List.replicate 247 0)).toOption.isSome = true ∧
    [buildFrame 256 256 (List.replicate 251 0), buildFrame (-1) 0 [], buildFrame 0 256 (List.replicate 251 0),
      buildFrame 0 (-1) [], buildFrame 0 0 (List.replicate 251 0), buildFrame 0 0 (List.replicate 250 0),
      buildFrame 0 0 (List.replicate 248 0)].map errorOf =
      [some .insRange, some .insRange, some .adrRange, some .adrRange, some .dataLong, some .lenOverflow, some .lenOverflow] := by
  decide +kernel

theorem witness_PackReturnsHighByteFirst :
    State.reset.atRest = true ∧ ((-1 : Int) < 0) ∧ ((65535 : Int) < 65536) ∧ (0 : Nat) ≤ 65535 ∧ 65535 ≤ 65535 := by decide

theorem witness_UnpackReturnsUnsignedValue :
    State.reset.atRest = true ∧ ([0x12] : List Byte).length ≠ 2 ∧ ([0x12, 0x34, 0x56] : List Byte).length ≠ 2 := by decide

theorem witness_PackAndUnpackAreInverse : ([0xFF, 0xFF] : List Byte).length = 2 ∧ 65535 ≤ 65535 := by decide

theorem witness_BuiltFrameKeepsChecksumLaw :
    (0 : Int) ≤ 255 ∧ (255 : Int) ≤ 255 ∧ (0 : Int) ≤ 0 ∧ (0 : Int) ≤ 255 ∧ (List.replicate 247 (0xFF : Byte)).length ≤ 247 := by
  decide +kernel

theorem witness_FieldDecoderIsInjective :
    ([0, 1, 0, 2, 0, 3, 0x19] : List Byte).length = 7 ∧
    ([1, 2, 3, 4, 5, 6, 7, 8, 9, 10, 11, 12, 13, 14, 15, 16, 0xFF, 0xFE] : List Byte).length = 18 := by decide

theorem witness_OpenFollowsTheTransport :
    ({ State.reset with openAnswers := [.ok ()] } : State).atRest = true ∧
    ({ State.reset with openAnswers := [.ok ()] } : State).answerOpen = .ok () ∧
    ({ State.reset with openAnswers := [.err err7] } : State).answerOpen = .err err7 := by decide

theorem witness_CloseAlwaysSucceeds : State.reset.atRest = true ∧ (opened [] []).atRest = true := by decide

theorem witness_OnlyOpenAndCloseWriteSession :
    ∃ t, exec .torqueOn (opened [.err err7] []) = .next t ∧ Instr.torqueOn ≠ .openSession ∧ Instr.torqueOn ≠ .closeSession ∧
      (opened [.err err7] []).atRest = true ∧ t.outcomes = (opened [.err err7] []).outcomes ++ [.err .tWrite] :=
  ⟨_, rfl, by decide, by decide, by decide, rfl⟩

theorem witness_ClosedSessionGatesTransfers :
    gatedFirst (.write 300 [256]) = true ∧ gatedFirst .getImuAngle = true ∧ gatedFirst .response = true ∧
      State.reset.atRest = true ∧ State.reset.session = .closed := by decide

theorem witness_ServoIdIsCheckedBeforeTheGate :
    State.reset.atRest = true ∧ State.reset.session = .closed ∧ (0 : Int) < 1 ∧ (18 : Int) < 19 ∧ (1 : Int) ≤ 1 ∧ (18 : Int) ≤ 18 := by
  decide

theorem witness_ClosedSessionMakesNoTransfer :
    State.reset.phase = .idle ∧ State.reset.session = .closed ∧ Instr.torqueOn ≠ .openSession ∧ Instr.torqueOn ≠ .closeSession ∧
      ∃ t, exec .torqueOn State.reset = .next t := ⟨rfl, rfl, by decide, by decide, _, rfl⟩

/-- The frame of the smallest write. -/
def smallWrite : List Byte := [0x55, 0x00, 0x08, 0x01, 0x10, 0xE6, 0x00, 0xAA]

theorem witness_WriteSendsOneFrame :
    (opened [.ok 8] []).atRest = true ∧ (opened [.ok 8] []).session = .opened ∧ ([] : List Byte).length ≤ 247 ∧
      smallWrite = frameBytes (BitVec.ofNat 8 (([] : List Byte).length + 8)) 0x01 0x10 [] ∧
      writeContract smallWrite ((opened [.ok 8] []).answerWrite smallWrite) = true ∧
      writeContract smallWrite ((opened [.err err7] []).answerWrite smallWrite) = true := by decide

/-- The longest frame a write can send. -/
theorem witness_WriteSendsOneFrame_longest :
    (List.replicate 247 (0 : Byte)).length ≤ 247 ∧
      (frameBytes (BitVec.ofNat 8 ((List.replicate 247 (0 : Byte)).length + 8)) 0x01 0x00 (List.replicate 247 0)).length = 255 := by
  decide +kernel

theorem witness_TransportAnswerDecidesTheWrite :
    (opened [.err err7] []).atRest = true ∧ (opened [.err err7] []).session = .opened ∧
      (opened [.err err7] []).answerWrite smallWrite = .err err7 ∧
      7 < 8 ∧ (opened [.ok 7] []).answerWrite smallWrite = .ok 7 ∧ (opened [.ok 8] []).answerWrite smallWrite = .ok 8 := by decide

theorem witness_IllegalOperandsSendNothing :
    (opened [] []).atRest = true ∧ (opened [] []).session = .opened ∧
      (∃ v ∈ [(256 : Int)], v < 0 ∨ 255 < v) ∧ (∃ v ∈ [(-1 : Int)], v < 0 ∨ 255 < v) ∧
      (∀ v ∈ [(0 : Int), 255], 0 ≤ v ∧ v ≤ 255) ∧ (255 : Int) < 256 ∧ (-1 : Int) < 0 := by decide

theorem witness_IllegalOperands_lengths :
    (∀ v ∈ List.replicate 251 (0 : Int), 0 ≤ v ∧ v ≤ 255) ∧ 250 < (List.replicate 251 (0 : Int)).length ∧
      248 ≤ (List.replicate 248 (0 : Int)).length ∧ (List.replicate 250 (0 : Int)).length ≤ 250 := by
  decide +kernel

theorem witness_TorqueOperationsSendTheirFrames :
    State.reset.atRest = true ∧ State.reset.session = .closed ∧ (opened [.ok 9] []).atRest = true ∧
      (opened [.ok 9] []).session = .opened ∧
      writeContract [0x55, 0x00, 0x09, 0x01, 0x26, 0x00, 0xCF, 0x00, 0xAA]
        ((opened [.ok 9] []).answerWrite [0x55, 0x00, 0x09, 0x01, 0x26, 0x00, 0xCF, 0x00, 0xAA]) = true := by decide

/-- S7: `servoMove(1, 200, 70000)`. -/
theorem witness_ServoMoveSendsClampedOperands :
    (opened [.ok 12] []).atRest = true ∧ (opened [.ok 12] []).session = .opened ∧ (1 : Int) ≤ 1 ∧ (1 : Int) ≤ 18 ∧
      (180 : Int) = (if (200 : Int) < 0 then 0 else if (180 : Int) < 200 then 180 else 200) ∧
      (65535 : Int) = (if (70000 : Int) < 0 then 0 else if (65535 : Int) < 70000 then 65535 else 70000) ∧
      ([0x55, 0x00, 0x0C, 0x01, 0x40, 0x01, 0xB4, 0xFF, 0xFF, 0xFF, 0x00, 0xAA] : List Byte) =
        [0x55, 0x00, 0x0C, 0x01, 0x40, BitVec.ofInt 8 1, BitVec.ofInt 8 180, BitVec.ofInt 8 (65535 / 256), BitVec.ofInt 8 65535,
          BitVec.ofInt 8 (255 - (0x4D + 1 + 180 + 65535 / 256 + 65535 % 256) % 256), 0x00, 0xAA] ∧
      writeContract [0x55, 0x00, 0x0C, 0x01, 0x40, 0x01, 0xB4, 0xFF, 0xFF, 0xFF, 0x00, 0xAA]
        ((opened [.ok 12] []).answerWrite [0x55, 0x00, 0x0C, 0x01, 0x40, 0x01, 0xB4, 0xFF, 0xFF, 0xFF, 0x00, 0xAA]) = true := by decide

/-- `calibrateServo(18, 65535)`. -/
theorem witness_CalibrateSendsClampedDeviation :
    (opened [.ok 11] []).atRest = true ∧ (opened [.ok 11] []).session = .opened ∧ (1 : Int) ≤ 18 ∧ (18 : Int) ≤ 18 ∧
      (65535 : Int) = (if (65535 : Int) < 0 then 0 else if (65535 : Int) < 65535 then 65535 else 65535) ∧
      ([0x55, 0x00, 0x0B, 0x01, 0x28, 0x12, 0xFF, 0xFF, 0xBB, 0x00, 0xAA] : List Byte) =
        [0x55, 0x00, 0x0B, 0x01, 0x28, BitVec.ofInt 8 18, BitVec.ofInt 8 (65535 / 256), BitVec.ofInt 8 65535,
          BitVec.ofInt 8 (255 - (0x34 + 18 + 65535 / 256 + 65535 % 256) % 256), 0x00, 0xAA] ∧
      writeContract [0x55, 0x00, 0x0B, 0x01, 0x28, 0x12, 0xFF, 0xFF, 0xBB, 0x00, 0xAA]
        ((opened [.ok 11] []).answerWrite [0x55, 0x00, 0x0B, 0x01, 0x28, 0x12, 0xFF, 0xFF, 0xBB, 0x00, 0xAA]) = true := by decide

theorem witness_WriteTypeOperationsNeverRead :
    isWriteType .torqueOn = true ∧ ∃ t, exec .torqueOn (opened [.ok 9] [.ok [0x55]]) = .next t := ⟨rfl, _, rfl⟩

/-- The request of readBatteryLevel. -/
def batteryRequest : List Byte := [0x55, 0x00, 0x09, 0x02, 0x01, 0x01, 0xF2, 0x00, 0xAA]

theorem witness_ReadIsRequestThenResponse :
    readForm .readBatteryLevel = some .raw ∧ encode .readBatteryLevel = some batteryRequest ∧ answered.atRest = true ∧
      answered.session = .opened ∧ answered.answerWrite batteryRequest = .ok batteryRequest.length ∧
      (opened [.ok 8] []).answerWrite batteryRequest = .ok 8 ∧ 8 < batteryRequest.length ∧
      (opened [.err err7] []).answerWrite batteryRequest = .err err7 := by decide

theorem witness_ReadReturnsThePayload :
    answered.atRest = true ∧ answered.session = .opened ∧ ([0xFF] : List Byte).length ≤ 247 ∧
      [0x55, 0x00, 0x09, 0x02, 0xFF, 0xFF, 0xF6, 0x00, 0xAA] =
        frameBytes (BitVec.ofNat 8 (([0xFF] : List Byte).length + 8)) 0x02 0xFF [0xFF] ∧
      answered.answerWrite [0x55, 0x00, 0x09, 0x02, 0xFF, 0xFF, 0xF6, 0x00, 0xAA] = .ok 9 ∧
      (answered.afterWrite [0x55, 0x00, 0x09, 0x02, 0xFF, 0xFF, 0xF6, 0x00, 0xAA]).receives 0x09
        ([0x12, 0x01, 0x4B, 0x98] ++ [0x00, 0xAA]) :=
  ⟨rfl, rfl, by decide, by decide, rfl, rfl, by decide, rfl, rfl⟩

theorem witness_NamedReadsReturnRawPayload :
    (1 : Int) ≤ 1 ∧ (18 : Int) ≤ 18 ∧ (0 : Int) < 1 ∧ (18 : Int) < 19 ∧
      answered.atRest = true ∧ answered.session = .opened ∧ answered.answerWrite batteryRequest = .ok 9 ∧
      (answered.afterWrite batteryRequest).receives 0x09 ([0x12, 0x01, 0x4B, 0x98] ++ [0x00, 0xAA]) ∧
      (∃ id : Nat, 1 ≤ id ∧ id ≤ 18 ∧ Instr.readServoAngle 18 = .readServoAngle id ∧
        [0x55, 0x00, 0x09, 0x02, 0x50, 0x12, 0x92, 0x00, 0xAA] =
          [0x55, 0x00, 0x09, 0x02, 0x50, BitVec.ofNat 8 id, BitVec.ofNat 8 (0xA4 - id), 0x00, (0xAA : Byte)]) :=
  ⟨by decide, by decide, by decide, by decide, rfl, rfl, rfl, ⟨rfl, by decide, rfl, rfl⟩, 18, by decide, by decide, rfl, by decide⟩

theorem witness_GetImuAngleDecodesSevenBytes :
    (answering [0x55, 0x00, 0x0F] [0x12, 0x60, 0, 1, 0, 2, 0, 3, 0x19, 0x5F, 0x00, 0xAA]).atRest = true ∧
      ((answering [0x55, 0x00, 0x0F] [0x12, 0x60, 0, 1, 0, 2, 0, 3, 0x19, 0x5F, 0x00, 0xAA]).afterWrite
        [0x55, 0x00, 0x09, 0x02, 0x60, 0x07, 0x8D, 0x00, 0xAA]).receives 0x0F
          [0x12, 0x60, 0, 1, 0, 2, 0, 3, 0x19, 0x5F, 0x00, 0xAA] ∧
      ((answering [0x55, 0x00, 0x0E] [0x12, 0x60, 0, 1, 0, 2, 0, 3, 0x79, 0x00, 0xAA]).afterWrite
        [0x55, 0x00, 0x09, 0x02, 0x60, 0x07, 0x8D, 0x00, 0xAA]).receives 0x0E
          ([0x12, 0x60, 0, 1, 0, 2, 0, 3, 0x79] ++ [0x00, 0xAA]) ∧ (0x0E : Byte) ≠ 0x0F :=
  ⟨rfl, ⟨rfl, by decide, rfl, rfl⟩, ⟨rfl, by decide, rfl, rfl⟩, by decide⟩

theorem witness_GetRawImuDataDecodesEighteenBytes :
    ((answering [0x55, 0x00, 0x1A]
        [0x12, 0x61, 1, 2, 3, 4, 5, 6, 7, 8, 9, 10, 11, 12, 13, 14, 15, 16, 0xFF, 0xFE, 0xED, 0x00, 0xAA]).afterWrite
      [0x55, 0x00, 0x09, 0x02, 0x61, 0x12, 0x81, 0x00, 0xAA]).receives 0x1A
        [0x12, 0x61, 1, 2, 3, 4, 5, 6, 7, 8, 9, 10, 11, 12, 13, 14, 15, 16, 0xFF, 0xFE, 0xED, 0x00, 0xAA] ∧
      ((answering [0x55, 0x00, 0x19]
        [0x12, 0x61, 1, 2, 3, 4, 5, 6, 7, 8, 9, 10, 11, 12, 13, 14, 15, 16, 17, 0xDA, 0x00, 0xAA]).afterWrite
      [0x55, 0x00, 0x09, 0x02, 0x61, 0x12, 0x81, 0x00, 0xAA]).receives 0x19
        ([0x12, 0x61, 1, 2, 3, 4, 5, 6, 7, 8, 9, 10, 11, 12, 13, 14, 15, 16, 17, 0xDA] ++ [0x00, 0xAA]) ∧ (0x19 : Byte) ≠ 0x1A :=
  ⟨⟨rfl, by decide, rfl, rfl⟩, ⟨rfl, by decide, rfl, rfl⟩, by decide⟩

theorem witness_TypedReadsDecodeTheRawReads :
    answered.atRest = true ∧
      (∃ t, exec .readImuAngle answered = .next t ∧ t.outcomes = answered.outcomes ++ [.ok (.bytes [0x4B])]) ∧
      ∃ t, exec .readRawImuAngle answered = .next t ∧ t.outcomes = answered.outcomes ++ [.ok (.bytes [0x4B])] :=
  ⟨rfl, ⟨_, rfl, rfl⟩, ⟨_, rfl, rfl⟩⟩

theorem witness_HeaderReadNeedsThreeBytes :
    (reading [.err err7]).phase = .readHead ∧ (reading [.err err7]).answerRead 3 1 = .err err7 ∧
      (reading [.ok [0x55, 0x00]]).answerRead 3 1 = .ok [0x55, 0x00] ∧ ([0x55, 0x00] : List Byte).length < 3 ∧
      (reading [.ok [0x55, 0x00, 0x09]]).answerRead 3 1 = .ok [0x55, 0x00, 0x09] := by decide

theorem witness_HeaderIsChecked :
    (reading [.ok [0x54, 0x00, 0x02]]).phase = .readHead ∧
      (reading [.ok [0x54, 0x00, 0x02]]).answerRead 3 1 = .ok [0x54, 0x00, 0x02] ∧ (0x54 : Byte) ≠ 0x55 ∧
      (reading [.ok [0x55, 0x01, 0x09]]).answerRead 3 1 = .ok [0x55, 0x01, 0x09] ∧ (0x01 : Byte) ≠ 0x00 := by decide

theorem witness_ReceivedLengthIsAtLeastFive :
    (reading [.ok [0x55, 0x00, 0x04]]).phase = .readHead ∧
      (reading [.ok [0x55, 0x00, 0x04]]).answerRead 3 1 = .ok [0x55, 0x00, 0x04] ∧ (0x04 : Byte).toNat < 5 ∧
      ({ opened [] [] with phase := .checkHead, rxHead := [0x55, 0x00, 0x05] } : State).phase = .checkHead ∧
      5 ≤ (0x05 : Byte).toNat ∧ 5 ≤ (0xFF : Byte).toNat := by decide

theorem witness_BodyReadNeedsTheWholeFrame :
    (reading [.ok [0x55, 0x00, 0x05], .err err7]).phase = .readHead ∧
      (reading [.ok [0x55, 0x00, 0x05], .err err7]).answerRead 3 1 = .ok [0x55, 0x00, 0x05] ∧ 5 ≤ (0x05 : Byte).toNat ∧
      ((reading [.ok [0x55, 0x00, 0x05], .err err7]).afterRead 3 1).answerRead ((0x05 : Byte).toNat - 3) 1 = .err err7 ∧
      ((reading [.ok [0x55, 0x00, 0x05], .ok [0x00]]).afterRead 3 1).answerRead ((0x05 : Byte).toNat - 3) 1 = .ok [0x00] ∧
      ([0x00] : List Byte).length < (0x05 : Byte).toNat - 3 := by decide

theorem witness_TailIsChecked :
    (reading [.ok [0x55, 0x00, 0x05], .ok [0x01, 0x26]]).phase = .readHead ∧
      (reading [.ok [0x55, 0x00, 0x05], .ok [0x01, 0x26]]).receives 0x05 ([] ++ [0x01, 0x26]) ∧ (0x01 : Byte) ≠ 0x00 :=
  ⟨rfl, ⟨rfl, by decide, rfl, rfl⟩, by decide⟩

theorem witness_PayloadIsExtracted :
    (reading [.ok [0x55, 0x00, 0x05], .ok [0x00, 0xAA]]).phase = .readHead ∧
      (reading [.ok [0x55, 0x00, 0x05], .ok [0x00, 0xAA]]).receives 0x05 ([] ++ [0x00, 0xAA]) ∧
      (reading [.ok [0x55, 0x00, 0x09], .ok [0x12, 0x01, 0x4B, 0x98, 0x00, 0xAA]]).receives 0x09
        ([0x12, 0x01, 0x4B, 0x98] ++ [0x00, 0xAA]) :=
  ⟨rfl, ⟨rfl, by decide, rfl, rfl⟩, ⟨rfl, by decide, rfl, rfl⟩⟩

theorem witness_ReceivedInsAdrChkAreNotChecked :
    (reading [.ok [0x55, 0x00, 0x08], .ok [0x12, 0x01, 0xDC, 0x00, 0xAA]]).phase = .readHead ∧
      (reading [.ok [0x55, 0x00, 0x08], .ok [0x12, 0x01, 0xDC, 0x00, 0xAA]]).form = .raw ∧
      (reading [.ok [0x55, 0x00, 0x08], .ok [0x12, 0x01, 0xDC, 0x00, 0xAA]]).receives 0x08
        (0x12 :: 0x01 :: [] ++ [0xDC, 0x00, 0xAA]) := ⟨rfl, rfl, rfl, by decide, rfl, rfl⟩

theorem witness_ResponseAtRestRunsTheProtocol :
    (opened [] [.ok [0x55, 0x00, 0x05], .ok [0x00, 0xAA]]).atRest = true ∧
      (opened [] [.ok [0x55, 0x00, 0x05], .ok [0x00, 0xAA]]).session = .opened ∧
      (opened [] [.ok [0x55, 0x00, 0x05], .ok [0x00, 0xAA]]).receives 0x05 ([] ++ [0x00, 0xAA]) :=
  ⟨rfl, rfl, rfl, by decide, rfl, rfl⟩

theorem witness_SequencerOnlyMovesForward :
    (∃ t, advance (reading [.ok [0x55, 0x00, 0x05]]) = .next t) ∧ (reading [.ok [0x55, 0x00, 0x05]]).phase ≠ .idle ∧
      ∃ t, runSequencer (reading [.ok [0x55, 0x00, 0x05], .ok [0x00, 0xAA]]) = .next t :=
  ⟨⟨_, rfl⟩, by decide, _, rfl⟩

theorem witness_EveryOperationDeliversOneOutcome : ∃ t, exec .readBatteryLevel answered = .next t := ⟨_, rfl⟩

theorem witness_ErrorLeavesSessionAndIsFinal :
    (opened [.err err7] []).phase = .idle ∧
      ∃ t, exec .torqueOn (opened [.err err7] []) = .next t ∧ t.outcomes = (opened [.err err7] []).outcomes ++ [.err .tWrite] :=
  ⟨rfl, _, rfl, rfl⟩

theorem witness_TransactionsOfOneOperation :
    answered.phase = .idle ∧ (∃ t, exec .readBatteryLevel answered = .next t) ∧
      (isCodec (.checksum [0]) = true ∧ ∃ t, exec (.checksum [0]) answered = .next t) ∧
      ∃ t, exec .response (opened [] [.ok [0x55, 0x00, 0x05], .ok [0x00, 0xAA]]) = .next t :=
  ⟨rfl, ⟨_, rfl⟩, ⟨rfl, _, rfl⟩, _, rfl⟩

theorem witness_OperationsOnlyAppend :
    (∃ t, exec (.servoMove 1 200 70000) (opened [.ok 12] []) = .next t) ∧ ∃ t, exec .torqueOn (opened [.ok 9] []) = .next t :=
  ⟨⟨_, rfl⟩, _, rfl⟩

theorem witness_OutcomeIgnoresDiagnosticsAndHistory : ∃ t, exec (.servoMove 1 200 70000) (opened [.ok 12] []) = .next t := ⟨_, rfl⟩

theorem witness_OperandErrorsAreTheIllFormedOnes :
    (opened [.ok 9] []).phase = .idle ∧ (opened [.ok 9] []).session = .opened ∧
      (∃ t, exec (.readServoAngle 19) (opened [.ok 9] []) = .next t) ∧ ∃ t, exec .torqueOn (opened [.ok 9] []) = .next t :=
  ⟨rfl, rfl, ⟨_, rfl⟩, _, rfl⟩

theorem witness_OperationInProgressHasNoStep : (reading []).phase ≠ .idle ∧ Instr.torqueOn ≠ .response := by decide

theorem witness_ContractBreachHasNoStep :
    encode .torqueOn = some [0x55, 0x00, 0x09, 0x01, 0x26, 0x00, 0xCF, 0x00, 0xAA] ∧ isWriteType .torqueOn = true ∧
      (opened [.ok 10] []).phase = .idle ∧ (opened [.ok 10] []).session = .opened ∧
      (opened [.ok 10] []).writeAnswers = .ok 10 :: [] ∧ 9 < 10 ∧
      (reading [.ok [0x55, 0x00, 0x09, 0x12]]).phase = .readHead ∧
      (reading [.ok [0x55, 0x00, 0x09, 0x12]]).readAnswers = .ok [0x55, 0x00, 0x09, 0x12] :: [] ∧ 3 < 4 ∧
      (reading [.ok [0x55, 0x00, 0x05], .ok [0x00, 0xAA, 0x01]]).readAnswers =
        .ok [0x55, 0x00, 0x05] :: .ok [0x00, 0xAA, 0x01] :: [] ∧ 5 ≤ (0x05 : Byte).toNat ∧ 5 - 3 < 3 ∧
      State.reset.phase = .idle ∧ State.reset.writeAnswers = [] ∧ State.reset.readAnswers = [] := by decide

/-- A scripted answer that keeps the contract is no breach, at the largest count it allows. -/
theorem witness_ContractBreach_kept :
    ¬ contractBreach .torqueOn (opened [.ok 9] []) ∧ (opened [.ok 9] []).phase = .idle := by
  refine ⟨?_, rfl⟩
  rintro ⟨-, ⟨f, hf, -, h⟩ | ⟨f, -, h, -⟩ | ⟨h, -⟩⟩
  · cases hf; cases h
  · cases h
  · cases h

/-- A breach in the second read, met from the request on. -/
theorem witness_ContractBreach_broken :
    contractBreach .readBatteryLevel (opened [.ok 9] [.ok [0x55, 0x00, 0x05], .ok [0x00, 0xAA, 0x01]]) :=
  ⟨rfl, .inr (.inl ⟨_, rfl, rfl, .inr ⟨rfl, .inr ⟨0x05, rfl, by decide, rfl⟩⟩⟩)⟩

/-- The block alone beside a transport (R22): the record comes back as it was, the write on the transport's trace. -/
theorem test_block_operate_takes_the_transport :
    (match Block.operate .torqueOn (opened [.ok 9] []).toTransport (opened [] []).toBlock with
      | .next (b, T, out) => b == (opened [] []).toBlock && T.writeAnswers == [] && out.outcomes == [.ok .unit] &&
          T.trace == [.tWrite [0x55, 0x00, 0x09, 0x01, 0x26, 0x00, 0xCF, 0x00, 0xAA] (.ok 9)]
      | _ => false) = true := by decide

theorem test_breach_is_refused :
    refusalOf (exec .torqueOn (opened [.ok 10] [])) = some .transportContract ∧
      refusalOf (exec .torqueOn (reading [])) = some .operationInProgress := by decide

theorem witness_DecodeOfEncodeIsTheOperation :
    encode (.servoMove 18 0 0) = some [0x55, 0x00, 0x0C, 0x01, 0x40, 0x12, 0x00, 0x00, 0x00, 0xA0, 0x00, 0xAA] := by decide

theorem witness_DecodedBytesAreTheEncoding :
    decode [0x55, 0x00, 0x09, 0x01, 0x26, 0x00, 0xCF, 0x00, 0xAA] = .ok (.torqueOn, []) := rfl

theorem witness_SentFramesAreTheEncodings :
    encode .torqueOn = some [0x55, 0x00, 0x09, 0x01, 0x26, 0x00, 0xCF, 0x00, 0xAA] ∧ (opened [.ok 9] []).phase = .idle ∧
      (opened [.ok 9] []).session = .opened ∧ (∃ t, exec .torqueOn (opened [.ok 9] []) = .next t) ∧
      encode (.buildFrame 0 0 []) = some [0x55, 0x00, 0x08, 0x00, 0x00, 0xF7, 0x00, 0xAA] ∧
      ∃ t, exec (.buildFrame 0 0 []) (opened [.ok 9] []) = .next t :=
  ⟨by decide, rfl, rfl, ⟨_, rfl⟩, by decide, _, rfl⟩

theorem witness_StepKeepsTheInvariant :
    ({ State.reset with program := [.openSession], openAnswers := [.ok ()] } : State).Inv ∧
      ∃ t, step { State.reset with program := [.openSession], openAnswers := [.ok ()] } = .next t ∧ t.session = .opened :=
  ⟨⟨rfl, by simp [State.reset], rfl⟩, _, rfl, rfl⟩

theorem witness_StepRunsTheIssuedOperation :
    ({ State.reset with program := [.torqueOn] } : State).phase = .idle ∧ State.reset.program = [] ∧
      (reading []).phase ≠ .idle := by decide

theorem witness_StepRunsTheDecodedWord :
    decodeTableWord 40 0x5500090126 = some .torqueOn ∧ Instr.torqueOn ≠ .response ∧
      decodeTableWord 16 0x5500 = some .response := by decide +kernel

end Sys2Proof.Tests
end

section
/-! When the transport's contract stops an operation (O44): from the transactions up through the sequencer's phases to every
instruction, each part either takes an answer outside the contract and is refused, or takes none and has a next state. -/

namespace Sys2Proof.Machine

/-- The result is the refusal `transportContract` when `P` holds, and a next state when it does not. -/
inductive StopsIff (P : Prop) : Result State → Prop where
  | refused (h : P) : StopsIff P (.refused .transportContract)
  | next (h : ¬P) (t : State) : StopsIff P (.next t)

theorem StopsIff.congr {P Q : Prop} {r : Result State} (h : StopsIff P r) (hPQ : P ↔ Q) : StopsIff Q r := by
  cases h with
  | refused h => exact .refused (hPQ.1 h)
  | next h t => exact .next (mt hPQ.2 h) t

theorem StopsIff.refused_iff {P : Prop} {r : Result State} (h : StopsIff P r) : r = .refused .transportContract ↔ P := by
  cases h with
  | refused h => simp [h]
  | next h t => simp [h]

theorem StopsIff.exists_next {P : Prop} {r : Result State} (h : StopsIff P r) (hn : ¬P) : ∃ t, r = .next t := by
  cases h with
  | refused h => exact absurd h hn
  | next h t => exact ⟨t, rfl⟩

/-! ## A breach stops the transaction that meets it -/

theorem tWrite_refused {s : State} {bs : List Byte} (h : writeContract bs (s.answerWrite bs) = false) :
    tWrite bs s = .refused .transportContract := by simp [tWrite, h]

theorem tRead_refused {s : State} {n k : Nat} (h : readContract n (s.answerRead n k) = false) :
    tRead n k s = .refused .transportContract := by simp [tRead, h]

theorem sendFrame_refused {s : State} (h : s.writeBreach s.txFrame) : sendFrame s = .refused .transportContract := by
  rw [sendFrame, tWrite_refused h, andThen_refused]

/-! ## The sequencer, from each phase on (R16) -/

/-- From ReadBody on: the second read alone (R108). -/
theorem advances_readBody_stopsIff {s : State} (h : s.phase = .readBody) (k : Nat) :
    StopsIff (readContract (s.rxLen - 3) (s.answerRead (s.rxLen - 3) 1) = false) (advances (k + 3) s) := by
  cases hc : readContract (s.rxLen - 3) (s.answerRead (s.rxLen - 3) 1) with
  | true =>
    rw [advances_readBody h k hc]
    exact .next (by simp) _
  | false =>
    have hr : advance s = .refused .transportContract := by
      simp only [advance, h, phaseReadBody, Config.rxHeadBytes, Config.rxTimeout, tRead_refused hc, andThen_refused]
    rw [advances_succ, hr]
    exact .refused rfl

/-- From CheckHead on: the second read, which only a good header reaches (R106, R107). -/
theorem advances_checkHead_stopsIff {s : State} (h : s.phase = .checkHead) (k : Nat) :
    StopsIff (byteAt s.rxHead 0 = 0x55 ∧ byteAt s.rxHead 1 = 0x00 ∧ s.bodyBreach s.rxLen) (advances (k + 4) s) := by
  rw [advances_succ, advance, h]
  simp only [phaseCheckHead, Config.rxMinLen]
  split
  · next hh =>
    rw [State.raise_eq, andThen_next, advances_deliver]
    refine .next ?_ _
    rintro ⟨h0, h1, -⟩
    simp [h0, h1] at hh
  · next hh =>
    obtain ⟨h0, h1⟩ : byteAt s.rxHead 0 = 0x55 ∧ byteAt s.rxHead 1 = 0x00 := by simpa using hh
    split
    · next hn =>
      rw [State.raise_eq, andThen_next, advances_deliver]
      refine .next ?_ _
      rintro ⟨-, -, h5, -⟩
      omega
    · next hn =>
      refine (advances_readBody_stopsIff (s := { s with phase := .readBody }) rfl k).congr ?_
      exact ⟨fun hb => ⟨h0, h1, by omega, hb⟩, fun ⟨_, _, _, hb⟩ => hb⟩

/-- Three header bytes that start `55 00`. -/
theorem header_eq_iff {hd : List Byte} (hl : hd.length = 3) (n : Byte) :
    hd = [0x55, 0x00, n] ↔ byteAt hd 0 = 0x55 ∧ byteAt hd 1 = 0x00 ∧ byteAt hd 2 = n := by
  obtain ⟨a, b, c, rfl⟩ := List.length_eq_three.1 hl
  simp [byteAt]

/-- When the first read keeps its contract with three bytes, a breach can only be in the second one. -/
theorem headBreach_iff_of_header {s : State} {hd : List Byte} (ha : s.answerRead 3 1 = .ok hd) (hl : hd.length = 3) :
    s.headBreach ↔ byteAt hd 0 = 0x55 ∧ byteAt hd 1 = 0x00 ∧ (s.afterRead 3 1).bodyBreach (byteAt hd 2).toNat := by
  have hc : readContract 3 (.ok hd) = true := by simp [readContract, hl]
  simp only [State.headBreach, ha, hc, Answer.ok.injEq, header_eq_iff hl, Bool.true_eq_false, false_or]
  constructor
  · rintro ⟨n, ⟨h0, h1, rfl⟩, hb⟩
    exact ⟨h0, h1, hb⟩
  · rintro ⟨h0, h1, hb⟩
    exact ⟨_, ⟨h0, h1, rfl⟩, hb⟩

/-- A first read that ends the operation within its contract is no breach. -/
theorem not_headBreach_of_no_header {s : State} (hc : readContract 3 (s.answerRead 3 1) = true)
    (h : ∀ hd, s.answerRead 3 1 = .ok hd → hd.length < 3) : ¬ s.headBreach := by
  rintro (hb | ⟨n, ha, -⟩)
  · simp [hc] at hb
  · simpa using h _ ha

/-- From ReadHead on: both reads (R105). -/
theorem advances_readHead_stopsIff {s : State} (h : s.phase = .readHead) (k : Nat) :
    StopsIff s.headBreach (advances (k + 5) s) := by
  rw [advances_succ, advance, h]
  cases hc : readContract 3 (s.answerRead 3 1) with
  | false =>
    simp only [phaseReadHead, Config.rxHeadBytes, Config.rxTimeout, tRead_refused hc, andThen_refused]
    exact .refused (.inl hc)
  | true =>
    simp only [phaseReadHead, Config.rxHeadBytes, Config.rxTimeout, tRead_ok hc, andThen_next]
    cases ha : s.answerRead 3 1 with
    | err e =>
      simp only [State.raise_eq, andThen_next, advances_deliver]
      exact .next (not_headBreach_of_no_header hc (by simp [ha])) _
    | ok hd =>
      by_cases h3 : hd.length < 3
      · simp only [h3, if_true, State.raise_eq, andThen_next, advances_deliver]
        exact .next (not_headBreach_of_no_header hc (by simp [ha, h3])) _
      · have hl : hd.length = 3 := by
          have : hd.length ≤ 3 := by simpa [ha, readContract] using hc
          omega
        simp only [h3, if_false, andThen_next]
        exact (advances_checkHead_stopsIff rfl k).congr (headBreach_iff_of_header ha hl).symm

/-- From SendRequest on: the write, and after one that succeeded both reads (R104, R119). -/
theorem advances_sendRequest_stopsIff {s : State} (h : s.phase = .sendRequest) (k : Nat) :
    StopsIff (s.requestBreach s.txFrame) (advances (k + 6) s) := by
  rw [advances_succ, advance, h]
  cases hc : writeContract s.txFrame (s.answerWrite s.txFrame) with
  | false =>
    simp only [phaseSendRequest, sendFrame_refused hc, andThen_refused]
    exact .refused (.inl hc)
  | true =>
    simp only [phaseSendRequest, sendFrame_ok hc, andThen_next]
    cases hs : sendCause s.txFrame.length (s.answerWrite s.txFrame) with
    | some c =>
      simp only [State.raise_eq, andThen_next, advances_deliver]
      exact .next (by simp [State.requestBreach, State.writeBreach, hc, hs]) _
    | none =>
      refine StopsIff.congr (advances_readHead_stopsIff
        (s := { s.afterWrite s.txFrame with txFrame := [], phase := .readHead }) rfl k) ?_
      simp only [State.requestBreach, State.writeBreach, hc, hs, Bool.true_eq_false, false_or, true_and]
      rfl

/-! ## write and read -/

/-- What is sent, and when: an open session, legal operands, data that fits (R81, R100, R120). -/
theorem requestFrame_ok_iff {ins address : Int} {data : List Int} {s : State} {f : List Byte}
    (hi : 0 ≤ ins ∧ ins ≤ 255) :
    requestFrame ins address data s = .ok f ↔
      s.session = .opened ∧ (isByte address && validateData data && decide (data.length ≤ maxEncodable)) = true ∧
        wireFrame (toByte ins) (toByte address) (data.map toByte) = f := by
  constructor
  · intro h
    obtain ⟨ho, hv, hb⟩ := requestFrame_ok h
    obtain ⟨-, ha, hl, rfl⟩ := buildFrame_inv hb
    have hl' : data.length ≤ maxEncodable := by simpa [maxEncodable, Config.lenOverhead] using hl
    exact ⟨ho, by simp only [(isByte_iff _).2 ha, hv, hl', decide_true, Bool.and_self], rfl⟩
  · rintro ⟨ho, hw, rfl⟩
    simp only [Bool.and_eq_true, decide_eq_true_eq] at hw
    obtain ⟨⟨ha, hv⟩, hl⟩ := hw
    rw [requestFrame_opened ho, if_pos hv]
    exact buildFrame_ok hi ((isByte_iff _).1 ha) (by simpa [maxEncodable, Config.lenOverhead] using hl)

theorem encode_write {address : Int} {data : List Int} (h : (Instr.write address data).wellFormed = true) :
    encode (.write address data) = some (wireFrame 0x01 (toByte address) (data.map toByte)) := by
  simp only [encode, h]
  rfl

theorem encode_read {address : Int} {data : List Int} (h : (Instr.read address data).wellFormed = true) :
    encode (.read address data) = some (wireFrame 0x02 (toByte address) (data.map toByte)) := by
  simp only [encode, h]
  rfl

theorem encode_eq_some_iff {i : Instr} {f g : List Byte} (hg : i.wellFormed = true → encode i = some g) :
    encode i = some f ↔ i.wellFormed = true ∧ g = f := by
  constructor
  · intro h
    have hw := Laws.wellFormed_of_encode h
    rw [hg hw] at h
    exact ⟨hw, Option.some.inj h⟩
  · rintro ⟨hw, rfl⟩
    exact hg hw

/-- The request of write is the encoder's frame, in an open session and for a well-formed operation only. -/
theorem requestFrame_write_ok_iff {address : Int} {data : List Int} {s : State} {f : List Byte} :
    requestFrame Config.insWrite address data s = .ok f ↔ s.session = .opened ∧ encode (.write address data) = some f := by
  rw [requestFrame_ok_iff (by decide), encode_eq_some_iff encode_write]
  rfl

theorem requestFrame_read_ok_iff {address : Int} {data : List Int} {s : State} {f : List Byte} :
    requestFrame Config.insRead address data s = .ok f ↔ s.session = .opened ∧ encode (.read address data) = some f := by
  rw [requestFrame_ok_iff (by decide), encode_eq_some_iff encode_read]
  rfl

theorem writeCommand_stopsIff (address : Int) (data : List Int) (s : State) :
    StopsIff (s.session = .opened ∧ ∃ f, encode (.write address data) = some f ∧ s.writeBreach f)
      (writeCommand address data s) := by
  cases hr : requestFrame Config.insWrite address data s with
  | error c =>
    rw [writeCommand_error hr]
    refine .next ?_ _
    rintro ⟨ho, f, he, -⟩
    simp [requestFrame_write_ok_iff.2 ⟨ho, he⟩] at hr
  | ok f =>
    obtain ⟨ho, he⟩ := requestFrame_write_ok_iff.1 hr
    cases hc : writeContract f (s.answerWrite f) with
    | true =>
      rw [writeCommand_ok hr hc]
      exact .next (by simp [he, State.writeBreach, hc]) _
    | false =>
      have hw : State.writeBreach f { s.discard with txFrame := f } := hc
      simp only [writeCommand, hr, sendFrame_refused hw, andThen_refused]
      exact .refused ⟨ho, f, he, hc⟩

theorem readCommand_stopsIff (form : PayloadForm) (address : Int) (data : List Int) (s : State) :
    StopsIff (s.session = .opened ∧ ∃ f, encode (.read address data) = some f ∧ s.requestBreach f)
      (readCommand form address data s) := by
  cases hr : requestFrame Config.insRead address data s with
  | error c =>
    rw [readCommand_error hr]
    refine .next ?_ _
    rintro ⟨ho, f, he, -⟩
    simp [requestFrame_read_ok_iff.2 ⟨ho, he⟩] at hr
  | ok f =>
    obtain ⟨ho, he⟩ := requestFrame_read_ok_iff.1 hr
    simp only [readCommand, hr]
    refine StopsIff.congr (advances_sendRequest_stopsIff
      (s := { s.discard with txFrame := f, phase := .sendRequest, form := form }) rfl 0) ?_
    simp only [ho, he, Option.some.injEq, exists_eq_left', true_and]
    rfl

/-! ## The breach predicate, by what the instruction sends -/

theorem readForm_of_isWriteType {i : Instr} (hi : isWriteType i = true) : readForm i = none := by
  cases i <;> simp_all [isWriteType, readForm]

theorem contractBreach_writeType_iff {i : Instr} {s : State} (hp : s.phase = .idle) (hi : isWriteType i = true) :
    contractBreach i s ↔ s.session = .opened ∧ ∃ f, encode i = some f ∧ s.writeBreach f := by
  have hne : i ≠ .response := by rintro rfl; cases hi
  simp [contractBreach, hp, hi, readForm_of_isWriteType hi, hne]

theorem contractBreach_readType_iff {i : Instr} {s : State} {form : PayloadForm} (hp : s.phase = .idle)
    (hi : readForm i = some form) :
    contractBreach i s ↔ s.session = .opened ∧ ∃ f, encode i = some f ∧ s.requestBreach f := by
  have hw : isWriteType i = false := by
    rw [← Bool.not_eq_true]
    intro hw
    simp [readForm_of_isWriteType hw] at hi
  have hne : i ≠ .response := by rintro rfl; cases hi
  simp [contractBreach, hp, hi, hw, hne]

theorem contractBreach_response_iff {s : State} (hp : s.phase = .idle) :
    contractBreach .response s ↔ s.session = .opened ∧ s.headBreach := by
  simp [contractBreach, hp, isWriteType, readForm]

/-- An instruction that makes no transfer takes no answer that could be a breach. -/
theorem not_contractBreach_of_no_transfer {i : Instr} (s : State) (hw : isWriteType i = false) (hr : readForm i = none)
    (hne : i ≠ .response) : ¬ contractBreach i s := by
  unfold contractBreach
  split <;> simp [hw, hr, hne]

/-- An ill-formed instruction has no frame, so it sends nothing. -/
theorem not_contractBreach_of_illFormed (i : Instr) (s : State) (h : i.wellFormed = false) : ¬ contractBreach i s := by
  have he : encode i = none := by simp [encode, h]
  have hne : i ≠ .response := by rintro rfl; cases h
  unfold contractBreach
  split <;> simp [he, hne]

/-- While an operation is in progress only RESPONSE takes answers. -/
theorem not_contractBreach_of_busy {i : Instr} {s : State} (hp : s.phase ≠ .idle) (hne : i ≠ .response) :
    ¬ contractBreach i s := by
  unfold contractBreach
  split
  · contradiction
  all_goals simp [hne]

/-! ## The named operations are their write or read (R112 to R117, R131 to R135) -/

/-- A 16-bit operand is packed as it stands in DATA (R61, R82). -/
theorem packUint16BE_wordField {v : Int} (h0 : 0 ≤ v) (h1 : v ≤ 65535) : packUint16BE v = .ok (wordField v) := by
  have hlo : BitVec.ofNat 8 (v.toNat % 256) = BitVec.ofNat 8 v.toNat := BitVec.eq_of_toNat_eq (by simp)
  rw [packUint16BE_ok h0 h1, hlo, wordField]

theorem validateData_cons (v : Int) (vs : List Int) : validateData (v :: vs) = (isByte v && validateData vs) := rfl

theorem isByte_of_servoIdLegal {v : Int} (h : servoIdLegal v = true) : isByte v = true := by
  obtain ⟨h0, h1⟩ := (servoIdLegal_iff v).1 h
  exact (isByte_iff v).2 ⟨by omega, by omega⟩

theorem isByte_clampAngle (v : Int) : isByte (clampAngle v) = true := by
  obtain ⟨h0, h1⟩ := clampAngle_mem v
  exact (isByte_iff _).2 ⟨h0, by omega⟩

theorem encode_servoMove {servoId : Int} (angle speed : Int) (h : servoIdLegal servoId = true) :
    encode (.servoMove servoId angle speed) =
      encode (.write Config.adrServoMove (servoId :: clampAngle angle :: (wordField (clampSpeed speed)).map ofByte)) := by
  have hm : (Instr.servoMove servoId angle speed).wellFormed = true := h
  have hw : (Instr.write Config.adrServoMove
      (servoId :: clampAngle angle :: (wordField (clampSpeed speed)).map ofByte)).wellFormed = true := by
    simp only [Instr.wellFormed, validateData_cons, isByte_of_servoIdLegal h, isByte_clampAngle, validateData_ofByte]
    rfl
  rw [encode_write hw, List.map_cons, List.map_cons, map_toByte_ofByte]
  simp only [encode, hm]
  rfl

theorem encode_calibrateServo {servoId : Int} (deviation : Int) (h : servoIdLegal servoId = true) :
    encode (.calibrateServo servoId deviation) =
      encode (.write Config.adrCalibrate (servoId :: (wordField (clampDeviation deviation)).map ofByte)) := by
  have hm : (Instr.calibrateServo servoId deviation).wellFormed = true := h
  have hw : (Instr.write Config.adrCalibrate
      (servoId :: (wordField (clampDeviation deviation)).map ofByte)).wellFormed = true := by
    simp only [Instr.wellFormed, validateData_cons, isByte_of_servoIdLegal h, validateData_ofByte]
    rfl
  rw [encode_write hw, List.map_cons, map_toByte_ofByte]
  simp only [encode, hm]
  rfl

theorem encode_readServoAngle {servoId : Int} (h : servoIdLegal servoId = true) :
    encode (.readServoAngle servoId) = encode (.read Config.adrServoAngle [servoId]) := by
  have hm : (Instr.readServoAngle servoId).wellFormed = true := h
  have hw : (Instr.read Config.adrServoAngle [servoId]).wellFormed = true := by
    simp only [Instr.wellFormed, validateData_cons, isByte_of_servoIdLegal h]
    rfl
  rw [encode_read hw]
  simp only [encode, hm]
  rfl

/-! ## Every instruction -/

theorem hostOperation_stopsIff {P : Prop} {body : State → Result State} {s : State} (hp : s.phase = .idle)
    (h : StopsIff P (body s)) : StopsIff P (hostOperation body s) := by rwa [hostOperation_idle hp]

/-- A body without a transfer. -/
theorem hostOperation_next_stopsIff {P : Prop} {f : State → State} {s : State} (hp : s.phase = .idle) (h : ¬P) :
    StopsIff P (hostOperation (fun s => .next (f s)) s) := hostOperation_stopsIff hp (.next h _)

/-- An instruction whose body is a write of its own frame. -/
theorem writeCommand_stopsIff_contractBreach {i : Instr} {s : State} {address : Int} {data : List Int} (hp : s.phase = .idle)
    (hi : isWriteType i = true) (he : encode i = encode (.write address data)) :
    StopsIff (contractBreach i s) (writeCommand address data s) := by
  rw [contractBreach_writeType_iff hp hi, he]
  exact writeCommand_stopsIff address data s

/-- An instruction whose body is a read with its own frame. -/
theorem readCommand_stopsIff_contractBreach {i : Instr} {s : State} {form : PayloadForm} {address : Int} {data : List Int}
    (hp : s.phase = .idle) (hi : readForm i = some form) (he : encode i = encode (.read address data)) :
    StopsIff (contractBreach i s) (readCommand form address data s) := by
  rw [contractBreach_readType_iff hp hi, he]
  exact readCommand_stopsIff form address data s

/-- A diagnostic is no answer of the transport. -/
@[simp] theorem noteClamp_writeBreach (s : State) (fd : ClampedField) (g u : Int) (f : List Byte) :
    (s.noteClamp fd g u).writeBreach f ↔ s.writeBreach f := by simp [State.writeBreach]

/-- The host operations at Idle: those without a transfer or with illegal operands take no answer; the others are
a write or a read. -/
theorem exec_idle_stopsIff {s : State} (hp : s.phase = .idle) (i : Instr) (hne : i ≠ .response) :
    StopsIff (contractBreach i s) (exec i s) := by
  cases i with
  | checksum payload => exact hostOperation_next_stopsIff hp (not_contractBreach_of_no_transfer s rfl rfl hne)
  | buildFrame instruction address data => exact hostOperation_next_stopsIff hp (not_contractBreach_of_no_transfer s rfl rfl hne)
  | packUint16BE value => exact hostOperation_next_stopsIff hp (not_contractBreach_of_no_transfer s rfl rfl hne)
  | unpackUint16BE bytes => exact hostOperation_next_stopsIff hp (not_contractBreach_of_no_transfer s rfl rfl hne)
  | openSession =>
    simp only [exec, execOpenSession, hostOperation_idle hp, tOpen]
    cases s.answerOpen with
    | ok u => exact .next (not_contractBreach_of_no_transfer s rfl rfl hne) _
    | err e => exact .next (not_contractBreach_of_no_transfer s rfl rfl hne) _
  | closeSession =>
    simp only [exec, execCloseSession, hostOperation_idle hp]
    exact .next (not_contractBreach_of_no_transfer s rfl rfl hne) _
  | write address data => exact hostOperation_stopsIff hp (writeCommand_stopsIff_contractBreach hp rfl rfl)
  | read address data => exact hostOperation_stopsIff hp (readCommand_stopsIff_contractBreach hp rfl rfl)
  | torqueOn => exact hostOperation_stopsIff hp (writeCommand_stopsIff_contractBreach hp rfl rfl)
  | torqueOff => exact hostOperation_stopsIff hp (writeCommand_stopsIff_contractBreach hp rfl rfl)
  | servoMove servoId angle speed =>
    simp only [exec, execServoMove, hostOperation_idle hp]
    cases hid : servoIdLegal servoId with
    | false => exact .next (not_contractBreach_of_illFormed (.servoMove servoId angle speed) s hid) _
    | true =>
      obtain ⟨h0, h1⟩ := clampSpeed_mem speed
      simp only [Bool.not_true, Bool.false_eq_true, if_false, packUint16BE_wordField h0 h1]
      rw [contractBreach_writeType_iff hp rfl, encode_servoMove angle speed hid]
      exact (writeCommand_stopsIff _ _ _).congr (by simp only [State.noteClamp_session, noteClamp_writeBreach])
  | readServoAngle servoId =>
    simp only [exec, execReadServoAngle, hostOperation_idle hp]
    cases hid : servoIdLegal servoId with
    | false => exact .next (not_contractBreach_of_illFormed (.readServoAngle servoId) s hid) _
    | true => exact readCommand_stopsIff_contractBreach hp rfl (encode_readServoAngle hid)
  | calibrateServo servoId deviation =>
    simp only [exec, execCalibrateServo, hostOperation_idle hp]
    cases hid : servoIdLegal servoId with
    | false => exact .next (not_contractBreach_of_illFormed (.calibrateServo servoId deviation) s hid) _
    | true =>
      obtain ⟨h0, h1⟩ := clampDeviation_mem deviation
      simp only [Bool.not_true, Bool.false_eq_true, if_false, packUint16BE_wordField h0 h1]
      rw [contractBreach_writeType_iff hp rfl, encode_calibrateServo deviation hid]
      exact (writeCommand_stopsIff _ _ _).congr (by simp only [State.noteClamp_session, noteClamp_writeBreach])
  | readBatteryLevel => exact hostOperation_stopsIff hp (readCommand_stopsIff_contractBreach hp rfl rfl)
  | readRawImuAngle => exact hostOperation_stopsIff hp (readCommand_stopsIff_contractBreach hp rfl rfl)
  | readImuAngle => exact hostOperation_stopsIff hp (readCommand_stopsIff_contractBreach hp rfl rfl)
  | getImuAngle => exact hostOperation_stopsIff hp (readCommand_stopsIff_contractBreach hp rfl rfl)
  | getRawImuData => exact hostOperation_stopsIff hp (readCommand_stopsIff_contractBreach hp rfl rfl)
  | response => exact absurd rfl hne

theorem exec_response_busy {s : State} (hp : s.phase ≠ .idle) : exec .response s = runSequencer s := by
  simp only [exec, execResponse]

/-- RESPONSE, from whichever phase it starts. -/
theorem exec_response_stopsIff (s : State) : StopsIff (contractBreach .response s) (exec .response s) := by
  cases hp : s.phase with
  | idle =>
    rw [contractBreach_response_iff hp]
    simp only [exec, execResponse, hp]
    cases hs : s.session with
    | closed => exact .next (by simp) _
    | opened =>
      exact (advances_readHead_stopsIff (s := { s.discard with phase := .readHead }) rfl 1).congr
        ⟨fun hb => ⟨rfl, hb⟩, fun ⟨_, hb⟩ => hb⟩
  | sendRequest =>
    rw [exec_response_busy (by simp [hp])]
    exact (advances_sendRequest_stopsIff hp 0).congr (by simp [contractBreach, hp])
  | readHead =>
    rw [exec_response_busy (by simp [hp])]
    exact (advances_readHead_stopsIff hp 1).congr (by simp [contractBreach, hp])
  | checkHead =>
    rw [exec_response_busy (by simp [hp])]
    exact (advances_checkHead_stopsIff hp 2).congr (by simp [contractBreach, hp])
  | readBody =>
    rw [exec_response_busy (by simp [hp])]
    exact (advances_readBody_stopsIff hp 3).congr (by simp [contractBreach, hp])
  | checkTail =>
    rw [exec_response_busy (by simp [hp]), runSequencer, advances_checkTail hp]
    exact .next (by simp [contractBreach, hp]) _
  | extract =>
    rw [exec_response_busy (by simp [hp]), runSequencer, advances_succ, advance, hp]
    simp only [phaseExtract, andThen_next, advances_deliver]
    exact .next (by simp [contractBreach, hp]) _

/-- An operation issued during another one (R184, U19). -/
theorem exec_busy {i : Instr} {s : State} (hp : s.phase ≠ .idle) (hne : i ≠ .response) :
    exec i s = .refused .operationInProgress := by
  cases i with
  | response => exact absurd rfl hne
  | _ =>
    simp only [exec, execChecksum, execBuildFrame, execPackUint16BE, execUnpackUint16BE, execOpenSession, execCloseSession,
      execWrite, execRead, execTorqueOn, execTorqueOff, execServoMove, execReadServoAngle, execCalibrateServo,
      execReadBatteryLevel, execReadRawImuAngle, execReadImuAngle, execGetImuAngle, execGetRawImuData, hostOperation_busy hp]

theorem exec_stopsIff {i : Instr} {s : State} (h : s.phase = .idle ∨ i = .response) :
    StopsIff (contractBreach i s) (exec i s) := by
  by_cases hi : i = .response
  · subst hi
    exact exec_response_stopsIff s
  · exact exec_idle_stopsIff (h.resolve_right hi) i hi

theorem exec_transportContract_iff (i : Instr) (s : State) :
    exec i s = .refused .transportContract ↔ contractBreach i s := by
  by_cases h : s.phase = .idle ∨ i = .response
  · exact (exec_stopsIff h).refused_iff
  · obtain ⟨hp, hne⟩ := not_or.1 h
    simp [exec_busy hp hne, not_contractBreach_of_busy hp hne]

/-! ## Plain cases of a breach -/

theorem writeBreach_of_count {s : State} {f : List Byte} {k : Nat} {ks : List (Answer Nat)}
    (ha : s.writeAnswers = .ok k :: ks) (hk : f.length < k) : s.writeBreach f := by
  simp [State.writeBreach, State.answerWrite, ha, writeContract, hk]

theorem contractBreach_of_writeBreach {i : Instr} {s : State} {f : List Byte} (he : encode i = some f)
    (hi : isWriteType i = true ∨ (readForm i).isSome = true) (hp : s.phase = .idle) (ho : s.session = .opened)
    (hb : s.writeBreach f) : contractBreach i s := by
  rcases hi with hw | hr
  · exact (contractBreach_writeType_iff hp hw).2 ⟨ho, f, he, hb⟩
  · obtain ⟨form, hr⟩ := Option.isSome_iff_exists.1 hr
    exact (contractBreach_readType_iff hp hr).2 ⟨ho, f, he, .inl hb⟩

theorem headBreach_of_long_head {s : State} {h : List Byte} {rs : List (Answer (List Byte))}
    (ha : s.readAnswers = .ok h :: rs) (hl : 3 < h.length) : s.headBreach :=
  .inl (by simp [State.answerRead, ha, readContract, hl])

theorem headBreach_of_long_body {s : State} {n : Byte} {b : List Byte} {rs : List (Answer (List Byte))}
    (ha : s.readAnswers = .ok [0x55, 0x00, n] :: .ok b :: rs) (hn : 5 ≤ n.toNat) (hl : n.toNat - 3 < b.length) :
    s.headBreach :=
  .inr ⟨n, by simp [State.answerRead, ha], hn, by simpa [State.answerRead, ha, readContract] using hl⟩

/-- Without scripted answers to T.read the oracle answers, within its contract. -/
theorem not_headBreach_of_unscripted {s : State} (hr : s.readAnswers = []) : ¬ s.headBreach := by
  rintro (hb | ⟨n, -, -, hb⟩)
  · simp [readContract_oracle 3 1 hr] at hb
  · have hr' : (s.afterRead 3 1).readAnswers = [] := by simp [hr]
    simp [readContract_oracle _ 1 hr'] at hb

theorem not_contractBreach_of_unscripted {i : Instr} {s : State} (hp : s.phase = .idle) (hw : s.writeAnswers = [])
    (hr : s.readAnswers = []) : ¬ contractBreach i s := by
  have nowrite : ∀ f, ¬ s.writeBreach f := fun f => by simp [State.writeBreach, writeContract_oracle f hw]
  simp only [contractBreach, hp]
  rintro ⟨-, ⟨f, -, -, hb⟩ | ⟨f, -, -, hb | ⟨-, hb⟩⟩ | ⟨-, hb⟩⟩
  · exact nowrite f hb
  · exact nowrite f hb
  · exact not_headBreach_of_unscripted (s := s.afterWrite f) hr hb
  · exact not_headBreach_of_unscripted hr hb

/-- Settles O44: every part of an operation stops exactly at a breach in the answer it takes. -/
theorem contractBreachHasNoStep : Obligations.ContractBreachHasNoStep := by
  refine ⟨exec_transportContract_iff, fun i s hb h => (exec_stopsIff h).exists_next hb, ?_, ?_, ?_, ?_⟩
  · intro s i f k ks he hi hp ho ha hk
    exact (exec_transportContract_iff i s).2 (contractBreach_of_writeBreach he hi hp ho (writeBreach_of_count ha hk))
  · intro s h rs hp ha hl
    exact (exec_transportContract_iff _ s).2 (by simpa [contractBreach, hp] using headBreach_of_long_head ha hl)
  · intro s n b rs hp ha hn hl
    exact (exec_transportContract_iff _ s).2 (by simpa [contractBreach, hp] using headBreach_of_long_body ha hn hl)
  · intro i s hp hw hr
    exact (exec_stopsIff (.inl hp)).exists_next (not_contractBreach_of_unscripted hp hw hr)

end Sys2Proof.Machine
end

section
/-! What a step runs (O53; R5, R180), from what `nextOperation` gives in each of its three cases. -/

namespace Sys2Proof.Machine


theorem nextOperation_issue {s : State} {i : Instr} {is : List Instr} (hp : s.phase = .idle) (h : s.program = i :: is) :
    nextOperation s = some (i, { s with program := is }) := by simp [nextOperation, hp, h]

theorem nextOperation_wait {s : State} (hp : s.phase = .idle) (h : s.program = []) : nextOperation s = none := by
  simp [nextOperation, hp, h]

theorem nextOperation_busy {s : State} (hp : s.phase ≠ .idle) : nextOperation s = some (.response, s) := by
  unfold nextOperation
  split
  · contradiction
  · rfl

/-- Settles O53, by the three cases of what comes next. -/
theorem stepRunsTheIssuedOperation : Obligations.StepRunsTheIssuedOperation := by
  refine ⟨?_, ?_, ?_⟩
  · intro s i is hp h
    simp only [step, nextOperation_issue hp h]
  · intro s hp h
    simp only [step, nextOperation_wait hp h]
  · intro s hp
    simp only [step, nextOperation_busy hp]

end Sys2Proof.Machine
end

section
/-! What an instruction leaves of a state, whichever it is (O10, O13, O36, O39): open and close in full, and every other one as a read
in progress that goes on, with the diagnostics of its clamps before it. -/

namespace Sys2Proof.Machine

theorem moved_afterWrite (s : State) (f : List Byte) :
    Moved s [.tWrite f (s.answerWrite f)] 1 0 (s.afterWrite f) :=
  ⟨rfl, by simp [State.moved, State.afterWrite], rfl, rfl⟩

theorem moved_afterRead (s : State) (n k : Nat) : Moved s [.tRead n k (s.answerRead n k)] 0 1 (s.afterRead n k) :=
  ⟨rfl, by simp [State.moved, State.afterRead], rfl, rfl⟩

theorem Received.continued {form : PayloadForm} {s t : State} (h : Received form s t) : Continued s t := by
  cases h with
  | first c => exact continued_trans (moved_afterRead s 3 1) (continued_deliver _ _)
  | second n o =>
    exact continued_trans (moved_afterRead s 3 1) (continued_trans (moved_afterRead _ (n.toNat - 3) 1) (continued_deliver _ o))

/-- An operation that clamps nothing adds no diagnostic. -/
theorem exists_noting_nil {i : Instr} {s t : State} (h : Continued s t) :
    ∃ ds, (ds = [] ∨ Clamps i) ∧ Continued (s.noting ds) t :=
  ⟨[], .inl rfl, by rwa [State.noting_nil]⟩

theorem Effect.continued {i : Instr} {s t : State} (h : Effect i s t) (hopen : i ≠ .openSession) (hclose : i ≠ .closeSession) :
    ∃ ds, (ds = [] ∨ Clamps i) ∧ Continued (s.noting ds) t := by
  cases h with
  | silent _ _ ds o _ _ hd => exact ⟨ds, hd, continued_deliver _ o⟩
  | openOk => exact absurd rfl hopen
  | openErr => exact absurd rfl hopen
  | close => exact absurd rfl hclose
  | wrote _ _ ds f _ _ _ _ _ hd => exact ⟨ds, hd, continued_trans (moved_afterWrite _ f) (continued_deliver _ _)⟩
  | unsent _ _ f c => exact exists_noting_nil (continued_trans (moved_afterWrite s f) (continued_deliver _ _))
  | requested _ _ _ f form _ _ _ _ _ hr =>
    have hsent : Moved s [.tWrite f (s.answerWrite f)] 1 0 { s.discard.afterWrite f with phase := .readHead, form := form } :=
      moved_afterWrite s f
    exact exists_noting_nil (continued_trans hsent hr.continued)
  | alone _ _ _ _ hr => exact exists_noting_nil (continued_trans (moved_refl s _ rfl rfl rfl rfl) hr.continued)
  | goesOn _ _ _ hc => exact exists_noting_nil hc

theorem Effect.openSession_cases {s t : State} (h : Effect .openSession s t) :
    t = { s.afterOpen with session := .opened }.deliver (.ok .unit) ∨ t = s.afterOpen.deliver (.err .tOpen) := by
  cases h with
  | silent _ _ _ _ _ hi => exact absurd rfl hi.1
  | openOk => exact .inl rfl
  | openErr => exact .inr rfl
  | wrote _ _ _ _ _ _ hi => cases hi
  | unsent _ _ _ _ _ _ hi => cases hi
  | requested _ _ _ _ _ _ _ hi => cases hi

theorem Effect.closeSession_eq {s t : State} (h : Effect .closeSession s t) :
    t = { s.afterClose with session := .closed }.deliver (.ok .unit) := by
  cases h with
  | silent _ _ _ _ _ hi => exact absurd rfl hi.2
  | close => rfl
  | wrote _ _ _ _ _ _ hi => cases hi
  | unsent _ _ _ _ _ _ hi => cases hi
  | requested _ _ _ _ _ _ _ hi => cases hi

/-- In a closed session only open and close make a transaction (R12, R159). -/
theorem Effect.silent_of_closed {i : Instr} {s t : State} (h : Effect i s t) (hp : s.phase = .idle) (hs : s.session = .closed)
    (hopen : i ≠ .openSession) (hclose : i ≠ .closeSession) : ∃ ds o, t = (s.noting ds).deliver o := by
  have hclosed : s.session ≠ .opened := by simp [hs]
  cases h with
  | silent _ _ ds o => exact ⟨ds, o, rfl⟩
  | openOk => exact absurd rfl hopen
  | openErr => exact absurd rfl hopen
  | close => exact absurd rfl hclose
  | wrote _ _ _ _ _ ho => exact absurd ho hclosed
  | unsent _ _ _ _ _ ho => exact absurd ho hclosed
  | requested _ _ _ _ _ _ ho => exact absurd ho hclosed
  | alone _ _ _ ho => exact absurd ho hclosed
  | goesOn _ _ hne => exact absurd hp hne

/-- What any instruction with a next state does: open and close by their own rule, and every other one as a read in progress. -/
theorem exec_cases {i : Instr} {s t : State} (h : exec i s = .next t) :
    (i = .openSession ∧
        (t = { s.afterOpen with session := .opened }.deliver (.ok .unit) ∨ t = s.afterOpen.deliver (.err .tOpen))) ∨
      (i = .closeSession ∧ t = { s.afterClose with session := .closed }.deliver (.ok .unit)) ∨
      (i ≠ .openSession ∧ i ≠ .closeSession ∧ ∃ ds, (ds = [] ∨ Clamps i) ∧ Continued (s.noting ds) t) := by
  have heffect := exec_effect h
  by_cases hopen : i = .openSession
  · subst hopen
    exact .inl ⟨rfl, heffect.openSession_cases⟩
  · by_cases hclose : i = .closeSession
    · subst hclose
      exact .inr (.inl ⟨rfl, heffect.closeSession_eq⟩)
    · exact .inr (.inr ⟨hopen, hclose, heffect.continued hopen hclose⟩)

/-- Every instruction ends by delivering its outcome (R9 item 7, R10). -/
theorem exec_delivers {i : Instr} {s t : State} (h : exec i s = .next t) :
    t.atRest = true ∧ ∃ o, t.outcomes = s.outcomes ++ [o] := by
  rcases exec_cases h with ⟨-, rfl | rfl⟩ | ⟨-, rfl⟩ | ⟨-, -, ds, -, es, k, m, o, rfl⟩
  all_goals exact ⟨State.deliver_atRest _ _, _, rfl⟩

/-- Settles O10: only open and close write `session`, and an open that ends in an error does not. -/
theorem onlyOpenAndCloseWriteSession : Obligations.OnlyOpenAndCloseWriteSession := by
  intro i s t h
  rcases exec_cases h with ⟨rfl, rfl | rfl⟩ | ⟨rfl, rfl⟩ | ⟨-, -, ds, -, es, k, m, o, rfl⟩
  · exact ⟨fun hopen => absurd rfl hopen, fun c _ herr => by simp at herr⟩
  · exact ⟨fun hopen => absurd rfl hopen, fun _ _ _ => rfl⟩
  · exact ⟨fun _ hclose => absurd rfl hclose, fun c _ herr => by simp at herr⟩
  · exact ⟨fun _ _ => rfl, fun _ _ _ => rfl⟩

/-- Settles O13: with the session closed nothing is moved but the outputs. -/
theorem closedSessionMakesNoTransfer : Obligations.ClosedSessionMakesNoTransfer := by
  intro i s t hp hs hopen hclose h
  obtain ⟨ds, o, rfl⟩ := (exec_effect h).silent_of_closed hp hs hopen hclose
  exact ⟨rfl, hs, rfl, rfl, rfl, rfl⟩

/-- Settles O36, by the cases of what an instruction can do. -/
theorem everyOperationDeliversOneOutcome : Obligations.EveryOperationDeliversOneOutcome :=
  fun _ _ _ h => exec_delivers h

/-- Settles O39: open and close use up one answer of their own kind; every other instruction only appends to the histories and takes
write and read answers from the front. -/
theorem operationsOnlyAppend : Obligations.OperationsOnlyAppend := by
  intro i s t h
  rcases exec_cases h with ⟨rfl, rfl | rfl⟩ | ⟨rfl, rfl⟩ | ⟨-, -, ds, hds, es, k, m, o, rfl⟩
  · simp [List.tail_suffix]
  · simp [List.tail_suffix]
  · simp [List.tail_suffix]
  · refine ⟨rfl, List.prefix_append _ _, List.prefix_append _ _, List.prefix_append _ _, List.suffix_rfl, List.suffix_rfl,
      List.drop_suffix _ _, List.drop_suffix _ _, fun _ => rfl, fun _ => rfl, fun hmove hcalibrate _ => ?_⟩
    have hnil : ds = [] := by
      rcases hds with hnil | ⟨id, a, v, rfl⟩ | ⟨id, d, rfl⟩
      · exact hnil
      · exact absurd rfl (hmove id a v)
      · exact absurd rfl (hcalibrate id d)
    simp [hnil, State.moved, State.noting]

end Sys2Proof.Machine
end

section
/-! The sequencer (O35; R16). -/

namespace Sys2Proof.Machine

theorem Phase.one_le_position {p : Phase} (h : p ≠ .idle) : 1 ≤ p.position := by
  cases p with
  | idle => exact absurd rfl h
  | _ => simp [Phase.position]

/-- Settles O35: one transition delivers or enters the next phase, and six of them are enough. -/
theorem sequencerOnlyMovesForward : Obligations.SequencerOnlyMovesForward := by
  refine ⟨fun s t h hp => ?_, fun s t h => ?_⟩
  · obtain ⟨u, es, k, m, -, ⟨o, rfl⟩ | ⟨-, hnext⟩⟩ := advance_cases h hp
    · exact .inl rfl
    · exact .inr hnext
  · by_cases hp : s.phase = .idle
    · rw [runSequencer, advances_idle hp] at h
      cases h
      exact hp
    · have hpos := Phase.one_le_position hp
      obtain ⟨es, k, m, o, rfl⟩ := continued_of_advances hp (by omega) h
      rfl

end Sys2Proof.Machine
end

section
/-! The invariant between operations (O52; R10, R12): a lawful stretch of a run, made of the transactions one after the other, and
the instructions as such stretches that end at rest. -/

namespace Sys2Proof.Machine

/-- From `s` to `t` the trace grew by lawful transactions only, and they made the session of `s` that of `t` (R8, R12). -/
def LawfulRun (s t : State) : Prop :=
  ∃ es, t.trace = s.trace ++ es ∧ (∀ e ∈ es, eventLawful e = true) ∧ sessionAfter s.session es = some t.session

theorem sessionAfter_append {σ τ : Session} {es : List Event} (fs : List Event) (h : sessionAfter σ es = some τ) :
    sessionAfter σ (es ++ fs) = sessionAfter τ fs := by
  fun_induction sessionAfter σ es <;> simp_all [sessionAfter]

namespace LawfulRun

theorem of_eq {s t : State} (htrace : t.trace = s.trace) (hsession : t.session = s.session) : LawfulRun s t :=
  ⟨[], by simp [htrace], by simp, by rw [hsession]; rfl⟩

theorem of_event {s t : State} (e : Event) (htrace : t.trace = s.trace ++ [e]) (he : eventLawful e = true)
    (hsession : sessionAfter s.session [e] = some t.session) : LawfulRun s t :=
  ⟨[e], htrace, by simpa using he, hsession⟩

theorem trans {s u t : State} (h : LawfulRun s u) (h' : LawfulRun u t) : LawfulRun s t := by
  obtain ⟨es, htrace, hes, hsession⟩ := h
  obtain ⟨fs, htrace', hfs, hsession'⟩ := h'
  refine ⟨es ++ fs, by rw [htrace', htrace, List.append_assoc], ?_, by rw [sessionAfter_append fs hsession, hsession']⟩
  intro e he
  exact (List.mem_append.1 he).elim (hes e) (hfs e)

theorem deliver {s t : State} (h : LawfulRun s t) (o : OpOutcome) : LawfulRun s (t.deliver o) := h.trans (of_eq rfl rfl)

theorem noting (s : State) (ds : List Diagnostic) : LawfulRun s (s.noting ds) := of_eq rfl rfl

end LawfulRun

/-- A state reached from the invariant by a lawful run, and at rest, meets it again. -/
theorem State.Inv.lawfulRun {s t : State} (h : s.Inv) (hrun : LawfulRun s t) (hrest : t.atRest = true) : t.Inv := by
  obtain ⟨-, hlawful, hsession⟩ := h
  obtain ⟨es, htrace, hes, hes'⟩ := hrun
  refine ⟨hrest, ?_, by rw [htrace, sessionAfter_append es hsession, hes']⟩
  intro e he
  rw [htrace] at he
  exact (List.mem_append.1 he).elim (hlawful e) (hes e)

/-! ## One transaction -/

theorem IsFrame.wellFormed {ins : Byte} {f : List Byte} (h : IsFrame ins f) : frameWellFormed f = true := by
  obtain ⟨adr, data, hl, rfl⟩ := h
  exact frameBytes_wellFormed ins adr hl

theorem IsFrame.ins {ins : Byte} {f : List Byte} (h : IsFrame ins f) : byteAt f 3 = ins := by
  obtain ⟨adr, data, -, rfl⟩ := h
  exact byteAt_frameBytes_3 _ _ _ _

theorem LawfulRun.afterWrite {s : State} {ins : Byte} {f : List Byte} (hs : s.session = .opened) (hf : IsFrame ins f)
    (hi : ins = 0x01 ∨ ins = 0x02) (hc : writeContract f (s.answerWrite f) = true) : LawfulRun s (s.afterWrite f) := by
  refine .of_event _ (State.afterWrite_trace s f) ?_ (by simp [hs, sessionAfter])
  simpa [eventLawful, hf.wellFormed, hf.ins, hc] using hi

/-- A response read asks for `n` bytes with the 1-second timeout (R105, R108). -/
theorem LawfulRun.afterRead {s : State} {n : Nat} (hs : s.session = .opened) (hn : 2 ≤ n) (hn' : n ≤ 252)
    (hc : readContract n (s.answerRead n 1) = true) : LawfulRun s (s.afterRead n 1) := by
  refine .of_event _ (State.afterRead_trace s n 1) ?_ (by simp [hs, sessionAfter])
  simp [eventLawful, hn, hn', hc]

/-! ## One operation -/

/-- The response protocol makes one or two lawful reads and ends at rest. -/
theorem Received.lawfulRun {form : PayloadForm} {s t : State} (h : Received form s t) (hs : s.session = .opened) :
    LawfulRun s t := by
  cases h with
  | first c hc h1 => exact (LawfulRun.afterRead hs (by decide) (by decide) h1).deliver _
  | second n o h1 hn h2 ho =>
    have hlt := n.isLt
    have hhead : LawfulRun s (s.afterRead 3 1) := .afterRead hs (by decide) (by decide) h1
    have hbody : LawfulRun (s.afterRead 3 1) (s.afterResponse n) := .afterRead hs (by omega) (by omega) h2
    exact (hhead.trans hbody).deliver o

theorem Effect.lawfulRun {i : Instr} {s t : State} (h : Effect i s t) (hp : s.phase = .idle) : LawfulRun s t := by
  cases h with
  | silent _ _ ds o => exact (LawfulRun.noting s ds).deliver o
  | openOk _ _ ha => exact .of_event (.tOpen (.ok ())) (by simp [ha]) rfl rfl
  | openErr _ e _ ha => exact .of_event (.tOpen (.err e)) (by simp [ha]) rfl rfl
  | close => exact .of_event .tClose rfl rfl rfl
  | wrote _ _ ds f _ hs _ hf hc =>
    exact ((LawfulRun.noting s ds).trans (.afterWrite (s := s.noting ds) hs hf (.inl rfl) hc)).deliver _
  | unsent _ _ f c _ hs _ hf hc => exact (LawfulRun.afterWrite hs hf (.inr rfl) hc).deliver _
  | requested _ _ _ f form _ hs _ hf hc hr =>
    have hsent : LawfulRun s (s.afterWrite f) := .afterWrite hs hf (.inr rfl) hc
    exact (hsent.trans (.of_eq rfl rfl)).trans (hr.lawfulRun hs)
  | alone _ _ _ hs hr => exact (LawfulRun.of_eq rfl rfl).trans (hr.lawfulRun hs)
  | goesOn _ _ hne => exact absurd hp hne

/-- Settles O52: a step waits or runs an instruction, which is a lawful run that ends at rest. -/
theorem stepKeepsTheInvariant : Obligations.StepKeepsTheInvariant := by
  intro s t hinv hstep
  have hp : s.phase = .idle := State.phase_of_atRest hinv.1
  cases hprog : s.program with
  | nil =>
    rw [step, nextOperation_wait hp hprog] at hstep
    cases hstep
    exact hinv
  | cons i is =>
    have hissue : { s with program := is }.Inv := hinv
    rw [step, nextOperation_issue hp hprog] at hstep
    exact hissue.lawfulRun ((exec_effect hstep).lawfulRun hp) (exec_delivers hstep).1

end Sys2Proof.Machine
end

section
/-! What an instruction does not read (O40, O41; R17, R20, R22): every part of it commutes with putting earlier outputs and another
program beside the block. -/

namespace Sys2Proof.Machine

/-- The same state after the outputs `out`, with the program `is`. -/
def State.behind (out : Outputs) (is : List Instr) (s : State) : State :=
  { s with outcomes := out.outcomes ++ s.outcomes, diagnostics := out.diagnostics ++ s.diagnostics, program := is }

/-- `f` neither reads nor drops earlier outputs, and neither reads nor writes the program. -/
def Commutes (f : State → Result State) : Prop :=
  ∀ (out : Outputs) (is : List Instr) (s : State), f (s.behind out is) = andThen (f s) fun t => .next (t.behind out is)

/-- Every state is its block beside its transport, after its outputs and with its program. -/
theorem State.eq_behind (s : State) : s = (s.toBlock.beside s.toTransport).behind s.toOutputs s.program := by
  simp [State.behind, Block.beside]

section
variable (out : Outputs) (is : List Instr) (s : State)

@[simp] theorem State.behind_session : (s.behind out is).session = s.session := rfl
@[simp] theorem State.behind_phase : (s.behind out is).phase = s.phase := rfl
@[simp] theorem State.behind_rxLen : (s.behind out is).rxLen = s.rxLen := rfl
@[simp] theorem State.behind_answerOpen : (s.behind out is).answerOpen = s.answerOpen := rfl
@[simp] theorem State.behind_discard : (s.behind out is).discard = s.discard.behind out is := rfl
@[simp] theorem State.behind_setTxFrame (f : List Byte) :
    { s.behind out is with txFrame := f } = State.behind out is { s with txFrame := f } := rfl
@[simp] theorem requestFrame_behind (ins address : Int) (data : List Int) :
    requestFrame ins address data (s.behind out is) = requestFrame ins address data s := rfl

@[simp] theorem State.behind_deliver (o : OpOutcome) : (s.behind out is).deliver o = (s.deliver o).behind out is := by
  simp [State.deliver, State.behind, State.discard]

@[simp] theorem State.behind_noting (ds : List Diagnostic) : (s.behind out is).noting ds = (s.noting ds).behind out is := by
  simp [State.noting, State.behind]

@[simp] theorem State.behind_afterClose : (s.behind out is).afterClose = s.afterClose.behind out is := by
  simp [State.afterClose, State.behind, State.answerClose]

@[simp] theorem sendFrame_behind :
    sendFrame (s.behind out is) = andThen (sendFrame s) fun (c, t) => .next (c, t.behind out is) := by
  cases hc : writeContract s.txFrame (s.answerWrite s.txFrame) with
  | true => rw [sendFrame_ok hc, sendFrame_ok (s := s.behind out is) hc]; rfl
  | false => rw [sendFrame_refused hc, sendFrame_refused (s := s.behind out is) hc]; rfl

@[simp] theorem tRead_behind (n k : Nat) :
    tRead n k (s.behind out is) = andThen (tRead n k s) fun (a, t) => .next (a, t.behind out is) := by
  cases hc : readContract n (s.answerRead n k) with
  | true => rw [tRead_ok hc, tRead_ok (s := s.behind out is) hc]; rfl
  | false => rw [tRead_refused hc, tRead_refused (s := s.behind out is) hc]; rfl

end

theorem andThen_assoc {α β γ : Type} (r : Result α) (f : α → Result β) (g : β → Result γ) :
    andThen (andThen r f) g = andThen r fun a => andThen (f a) g := by
  cases r <;> rfl

theorem andThen_congr {α β : Type} (r : Result α) {f g : α → Result β} (h : ∀ a, f a = g a) :
    andThen r f = andThen r g := congrArg (andThen r) (funext h)

namespace Commutes

/-- A part that always has a next state. -/
theorem of_next {f : State → State} (h : ∀ out is s, f (s.behind out is) = (f s).behind out is) :
    Commutes fun s => .next (f s) := by
  intro out is s
  simp only [h, andThen_next]

theorem deliver (o : OpOutcome) : Commutes fun s => .next (s.deliver o) := of_next fun out is s => s.behind_deliver out is o

/-- One part after the other. -/
theorem andThen {f g : State → Result State} (hf : Commutes f) (hg : Commutes g) : Commutes fun s => andThen (f s) g := by
  intro out is s
  simp only [hf out is s, andThen_assoc, andThen_next]
  exact andThen_congr _ fun t => hg out is t

/-- A branch that no earlier output and no program decides. -/
theorem ite {p : State → Prop} {_ : DecidablePred p} {f g : State → Result State}
    (hp : ∀ out is s, p (State.behind out is s) ↔ p s) (hf : Commutes f) (hg : Commutes g) :
    Commutes fun s => if p s then f s else g s := by
  intro out is s
  simp only [hp]
  by_cases h : p s
  · simpa only [if_pos h] using hf out is s
  · simpa only [if_neg h] using hg out is s

/-- Diagnostics added before a part. -/
theorem noting {f : State → Result State} (hf : Commutes f) (ds : List Diagnostic) : Commutes fun s => f (s.noting ds) := by
  intro out is s
  simp only [State.behind_noting]
  exact hf out is (s.noting ds)

end Commutes

/-! ## The sequencer -/

theorem commutes_phaseSendRequest : Commutes phaseSendRequest := by
  intro out is s
  simp only [phaseSendRequest, sendFrame_behind, andThen_assoc, andThen_next]
  refine andThen_congr _ fun (c, t) => ?_
  cases c with
  | some c => exact Commutes.deliver _ out is t
  | none => rfl

theorem commutes_phaseReadHead : Commutes phaseReadHead := by
  intro out is s
  simp only [phaseReadHead, tRead_behind, andThen_assoc, andThen_next]
  refine andThen_congr _ fun (a, t) => ?_
  cases a with
  | err e => exact Commutes.deliver _ out is t
  | ok h =>
    have hgo : Commutes fun t => .next { t with rxHead := h, phase := .checkHead } := fun _ _ _ => rfl
    exact Commutes.ite (p := fun _ => h.length < Config.rxHeadBytes) (fun _ _ _ => Iff.rfl) (.deliver _) hgo out is t

theorem commutes_phaseCheckHead : Commutes phaseCheckHead :=
  .ite (fun _ _ _ => Iff.rfl) (.deliver _) (.ite (fun _ _ _ => Iff.rfl) (.deliver _) fun _ _ _ => rfl)

theorem commutes_phaseReadBody : Commutes phaseReadBody := by
  intro out is s
  simp only [phaseReadBody, State.behind_rxLen, tRead_behind, andThen_assoc, andThen_next]
  refine andThen_congr _ fun (a, t) => ?_
  cases a with
  | err e => exact Commutes.deliver _ out is t
  | ok b =>
    have hgo : Commutes fun t => .next { t with rxBody := b, rxFrame := t.rxHead ++ b, phase := .checkTail } :=
      fun _ _ _ => rfl
    exact Commutes.ite (p := fun _ => b.length < s.rxLen - Config.rxHeadBytes) (fun _ _ _ => Iff.rfl) (.deliver _) hgo out is t

theorem commutes_phaseCheckTail : Commutes phaseCheckTail :=
  .ite (fun _ _ _ => Iff.rfl) (.deliver _) fun _ _ _ => rfl

theorem commutes_phaseExtract : Commutes phaseExtract := fun out is s => Commutes.deliver _ out is s

theorem commutes_advance : Commutes advance := by
  intro out is s
  simp only [advance, State.behind_phase]
  split
  · rfl
  · exact commutes_phaseSendRequest out is s
  · exact commutes_phaseReadHead out is s
  · exact commutes_phaseCheckHead out is s
  · exact commutes_phaseReadBody out is s
  · exact commutes_phaseCheckTail out is s
  · exact commutes_phaseExtract out is s

theorem commutes_advances (k : Nat) : Commutes (advances k) := by
  induction k with
  | zero => exact fun _ _ _ => rfl
  | succ k ih => exact commutes_advance.andThen ih

/-! ## The instructions -/

theorem commutes_writeCommand (address : Int) (data : List Int) : Commutes (writeCommand address data) := by
  intro out is s
  simp only [writeCommand, requestFrame_behind]
  cases requestFrame Config.insWrite address data s with
  | error c => exact Commutes.deliver _ out is s
  | ok f =>
    have hsend := sendFrame_behind out is { s.discard with txFrame := f }
    simp only [State.behind_discard, State.behind_setTxFrame, hsend, andThen_assoc, andThen_next]
    refine andThen_congr _ fun (c, t) => ?_
    cases c with
    | some c => exact Commutes.deliver _ out is t
    | none => exact Commutes.deliver _ out is t

theorem commutes_readCommand (form : PayloadForm) (address : Int) (data : List Int) : Commutes (readCommand form address data) := by
  intro out is s
  simp only [readCommand, requestFrame_behind]
  cases requestFrame Config.insRead address data s with
  | error c => exact Commutes.deliver _ out is s
  | ok f => exact commutes_advances 6 out is { s.discard with txFrame := f, phase := .sendRequest, form := form }

theorem commutes_hostOperation {body : State → Result State} (h : Commutes body) : Commutes (hostOperation body) := by
  intro out is s
  by_cases hp : s.phase = .idle
  · rw [hostOperation_idle hp, hostOperation_idle (s := s.behind out is) hp]
    exact h out is s
  · rw [hostOperation_busy hp, hostOperation_busy (s := s.behind out is) hp, andThen_refused]

theorem commutes_finish {α : Type} (r : Except Cause α) (w : α → Value) : Commutes fun s => .next (finish r w s) := by
  cases r with
  | ok v => exact .deliver _
  | error c => exact .deliver _

theorem commutes_response : Commutes execResponse := by
  intro out is s
  simp only [execResponse, State.behind_phase, State.behind_session]
  split
  · split
    · exact Commutes.deliver _ out is s
    · exact commutes_advances 6 out is { s.discard with phase := .readHead }
  · exact commutes_advances 6 out is s

theorem commutes_open : Commutes execOpenSession := by
  refine commutes_hostOperation fun out is s => ?_
  simp only [tOpen, State.behind_answerOpen]
  cases s.answerOpen with
  | ok u => exact Commutes.deliver _ out is { s.afterOpen with session := .opened }
  | err e => exact Commutes.deliver _ out is s.afterOpen

theorem commutes_close : Commutes execCloseSession := by
  refine commutes_hostOperation (.of_next fun out is s => ?_)
  simp only [tClose, State.behind_afterClose]
  exact State.behind_deliver out is { s.afterClose with session := .closed } _

/-- The servo operations: the id check, then the command. -/
theorem commutes_servo {legal : Bool} {command : State → Result State} (h : Commutes command) :
    Commutes (hostOperation fun s => if !legal then .next (s.raise .servoId) else command s) :=
  commutes_hostOperation (.ite (fun _ _ _ => Iff.rfl) (.deliver _) h)

theorem commutes_exec (i : Instr) : Commutes (exec i) := by
  cases i with
  | checksum payload => exact commutes_hostOperation (commutes_finish _ _)
  | buildFrame instruction address data => exact commutes_hostOperation (commutes_finish _ _)
  | packUint16BE value => exact commutes_hostOperation (commutes_finish _ _)
  | unpackUint16BE bytes => exact commutes_hostOperation (commutes_finish _ _)
  | openSession => exact commutes_open
  | closeSession => exact commutes_close
  | write address data => exact commutes_hostOperation (commutes_writeCommand _ _)
  | read address data => exact commutes_hostOperation (commutes_readCommand _ _ _)
  | torqueOn => exact commutes_hostOperation (commutes_writeCommand _ _)
  | torqueOff => exact commutes_hostOperation (commutes_writeCommand _ _)
  | servoMove servoId angle speed =>
    obtain ⟨h0, h1⟩ := clampSpeed_mem speed
    intro out is s
    simp only [exec, execServoMove, packUint16BE_ok h0 h1, State.noteClamp_eq, State.noting_noting]
    exact commutes_servo (Commutes.noting (commutes_writeCommand _ _) _) out is s
  | readServoAngle servoId => exact commutes_servo (commutes_readCommand _ _ _)
  | calibrateServo servoId deviation =>
    obtain ⟨h0, h1⟩ := clampDeviation_mem deviation
    intro out is s
    simp only [exec, execCalibrateServo, packUint16BE_ok h0 h1, State.noteClamp_eq]
    exact commutes_servo (Commutes.noting (commutes_writeCommand _ _) _) out is s
  | readBatteryLevel => exact commutes_hostOperation (commutes_readCommand _ _ _)
  | readRawImuAngle => exact commutes_hostOperation (commutes_readCommand _ _ _)
  | readImuAngle => exact commutes_hostOperation (commutes_readCommand _ _ _)
  | getImuAngle => exact commutes_hostOperation (commutes_readCommand _ _ _)
  | getRawImuData => exact commutes_hostOperation (commutes_readCommand _ _ _)
  | response => exact commutes_response

/-- Settles O41: the block beside its transport is the state before its outputs and its program are put beside it. -/
theorem blockStepTakesTheTransportAsParameter : Obligations.BlockStepTakesTheTransportAsParameter := by
  intro i s
  calc exec i s
      = exec i ((s.toBlock.beside s.toTransport).behind s.toOutputs s.program) := by rw [← State.eq_behind]
    _ = andThen (exec i (s.toBlock.beside s.toTransport)) fun t => .next (t.behind s.toOutputs s.program) :=
        commutes_exec i _ _ _
    _ = _ := by rw [Block.operate, andThen_assoc]; rfl

/-- Settles O40: both runs are the run of the block alone, put behind their own outputs and program. -/
theorem outcomeIgnoresDiagnosticsAndHistory : Obligations.OutcomeIgnoresDiagnosticsAndHistory := by
  intro i s t h
  rw [State.eq_behind s, commutes_exec] at h
  obtain ⟨u, hu, ht⟩ := andThen_eq_next h
  cases ht
  obtain ⟨-, o, ho⟩ := exec_delivers hu
  refine ⟨u.diagnostics, o, fun ds os is => ?_⟩
  have hrun := commutes_exec i { outcomes := os, diagnostics := ds } is (s.toBlock.beside s.toTransport)
  rw [hu, andThen_next] at hrun
  simpa [State.behind, ho] using hrun

end Sys2Proof.Machine
end

section
/-! Operand errors (O42; R13, R151): in an open session the checks fail exactly on the ill-formed instructions, and nothing after the
checks raises an operand error. -/

namespace Sys2Proof.Machine

/-- The outcome delivered between `s` and `t` is an error whose cause lies in the operands. -/
def OperandError (s t : State) : Prop := ∃ c : Cause, c.ofOperands = true ∧ t.outcomes = s.outcomes ++ [.err c]

theorem operandError_deliver_iff {s u : State} (o : OpOutcome) (hu : u.outcomes = s.outcomes) :
    OperandError s (u.deliver o) ↔ ∃ c, c.ofOperands = true ∧ o = .err c := by simp [OperandError, hu]

/-! ## The checks -/

theorem buildFrame_illFormed {ins adr : Int} {data : List Byte}
    (h : (isByte ins && isByte adr && decide (data.length ≤ maxEncodable)) = false) :
    ∃ c, c.ofOperands = true ∧ buildFrame ins adr data = .error c := by
  rw [buildFrame_eq]
  split
  · exact ⟨.insRange, rfl, rfl⟩
  · next hi =>
    split
    · exact ⟨.adrRange, rfl, rfl⟩
    · next ha =>
      split
      · exact ⟨.dataLong, rfl, rfl⟩
      · split
        · exact ⟨.lenOverflow, rfl, rfl⟩
        · next hl =>
          have hle : data.length ≤ maxEncodable := by simpa [maxEncodable, Config.lenOverhead] using hl
          simp [(isByte_iff ins).2 (not_not.1 hi), (isByte_iff adr).2 (not_not.1 ha), hle] at h

theorem requestFrame_illFormed {ins address : Int} {data : List Int} {s : State} (ho : s.session = .opened)
    (h : (isByte address && validateData data && decide (data.length ≤ maxEncodable)) = false) :
    ∃ c, c.ofOperands = true ∧ requestFrame ins address data s = .error c := by
  rw [requestFrame_opened ho]
  split
  · next hv =>
    simp only [hv, Bool.and_true] at h
    exact buildFrame_illFormed (by rw [List.length_map, Bool.and_assoc, h, Bool.and_false])
  · exact ⟨.dataByte, rfl, rfl⟩

theorem buildFrame_legal {ins adr : Int} {data : List Byte}
    (h : (isByte ins && isByte adr && decide (data.length ≤ maxEncodable)) = true) : ∃ f, buildFrame ins adr data = .ok f := by
  simp only [Bool.and_eq_true, decide_eq_true_eq] at h
  obtain ⟨⟨hi, ha⟩, hl⟩ := h
  exact ⟨_, buildFrame_ok ((isByte_iff _).1 hi) ((isByte_iff _).1 ha) hl⟩

theorem checksum_legal {payload : List Byte} (h : (!payload.isEmpty) = true) : ∃ b, checksum payload = .ok b := by
  cases payload with
  | nil => cases h
  | cons b bs => exact ⟨_, checksum_cons b bs⟩

theorem checksum_illFormed {payload : List Byte} (h : (!payload.isEmpty) = false) :
    ∃ c, c.ofOperands = true ∧ checksum payload = .error c := by
  cases payload with
  | nil => exact ⟨.emptyPayload, rfl, rfl⟩
  | cons b bs => cases h

theorem packUint16BE_legal {value : Int} (h : inRange 0 65535 value = true) : ∃ bs, packUint16BE value = .ok bs := by
  obtain ⟨h0, h1⟩ := (inRange_iff _ _ _).1 h
  exact ⟨_, packUint16BE_ok h0 h1⟩

theorem packUint16BE_illFormed {value : Int} (h : inRange 0 65535 value = false) :
    ∃ c, c.ofOperands = true ∧ packUint16BE value = .error c := by
  rw [← Bool.not_eq_true, inRange_iff] at h
  exact ⟨.u16Range, rfl, packUint16BE_error (by omega)⟩

theorem unpackUint16BE_legal {bytes : List Byte} (h : (bytes.length == 2) = true) : ∃ v, unpackUint16BE bytes = .ok v := by
  obtain ⟨hi, lo, rfl⟩ := List.length_eq_two.1 (eq_of_beq h)
  exact ⟨_, rfl⟩

theorem unpackUint16BE_illFormed {bytes : List Byte} (h : (bytes.length == 2) = false) :
    ∃ c, c.ofOperands = true ∧ unpackUint16BE bytes = .error c := by
  refine ⟨.u16Len, rfl, ?_⟩
  unfold unpackUint16BE
  split
  · simp at h
  · rfl

/-- A codec operation raises an operand error exactly when its function fails. -/
theorem codec_operandError_iff {α : Type} {r : Except Cause α} {wrap : α → Value} {legal : Bool} {s t : State}
    (h : hostOperation (fun s => .next (finish r wrap s)) s = .next t)
    (hok : legal = true → ∃ v, r = .ok v) (herr : legal = false → ∃ c, c.ofOperands = true ∧ r = .error c) :
    legal = false ↔ OperandError s t := by
  obtain ⟨-, hb⟩ := hostOperation_next h
  cases hb
  cases legal with
  | true =>
    obtain ⟨v, rfl⟩ := hok rfl
    simp [OperandError, finish]
  | false =>
    obtain ⟨c, hc, rfl⟩ := herr rfl
    simp [OperandError, finish, hc]

/-! ## After the checks -/

theorem not_operandError_of_written {s : State} (f : List Byte) (a : Answer Nat) :
    ¬ OperandError s ((s.afterWrite f).deliver (writeOutcome f a)) := by
  rw [operandError_deliver_iff _ (State.afterWrite_outcomes s f)]
  rcases sendCause_outcome f a with ⟨c, -, ho, rfl | rfl⟩ | ⟨-, ho⟩ <;> simp [ho, Cause.ofOperands]

theorem payloadOutcome_not_operandError (form : PayloadForm) (p : List Byte) :
    ¬ ∃ c, c.ofOperands = true ∧ payloadOutcome form p = .err c := by
  rintro ⟨c, hc, h⟩
  cases form with
  | raw => cases h
  | imuAngle =>
    simp only [payloadOutcome] at h
    split at h <;> cases h
    cases hc
  | rawImu =>
    simp only [payloadOutcome] at h
    split at h <;> cases h
    cases hc

theorem Received.not_operandError {form : PayloadForm} {s t : State} (h : Received form s t) : ¬ OperandError s t := by
  cases h with
  | first c hc =>
    rw [operandError_deliver_iff _ (State.afterRead_outcomes s 3 1)]
    rintro ⟨d, hd, ho⟩
    cases ho
    revert hd
    simp only [List.mem_cons, List.not_mem_nil, or_false] at hc
    rcases hc with rfl | rfl | rfl | rfl <;> decide
  | second n o _ _ _ ho =>
    rw [operandError_deliver_iff (s := s) (u := s.afterResponse n) o rfl]
    rcases ho with ho | ⟨p, rfl⟩
    · simp only [List.mem_cons, List.not_mem_nil, or_false] at ho
      rcases ho with rfl | rfl | rfl <;> simp [Cause.ofOperands]
    · exact payloadOutcome_not_operandError form p

/-! ## write and read -/

theorem writeCommand_operandError_iff {address : Int} {data : List Int} {s t : State} (ho : s.session = .opened)
    (h : writeCommand address data s = .next t) : (Instr.write address data).wellFormed = false ↔ OperandError s t := by
  cases hw : (Instr.write address data).wellFormed with
  | true =>
    have hr := requestFrame_write_ok_iff.2 ⟨ho, encode_write hw⟩
    rcases writeCommand_next h with ⟨c, hc, -⟩ | ⟨f, -, -, rfl⟩
    · simp [hr] at hc
    · exact iff_of_false (by simp) (not_operandError_of_written f _)
  | false =>
    obtain ⟨c, hc, hr⟩ := requestFrame_illFormed (ins := Config.insWrite) ho hw
    rw [writeCommand_error hr] at h
    cases h
    simp [OperandError, hc]

theorem readCommand_operandError_iff {form : PayloadForm} {address : Int} {data : List Int} {s t : State}
    (ho : s.session = .opened) (h : readCommand form address data s = .next t) :
    (Instr.read address data).wellFormed = false ↔ OperandError s t := by
  cases hw : (Instr.read address data).wellFormed with
  | true =>
    have hr := requestFrame_read_ok_iff.2 ⟨ho, encode_read hw⟩
    rcases readCommand_next h with ⟨c, hc, -⟩ | ⟨f, -, -, ⟨c, hc, -, rfl⟩ | ⟨-, hrec⟩⟩
    · simp [hr] at hc
    · rw [operandError_deliver_iff _ (State.afterWrite_outcomes s f)]
      rcases hc with rfl | rfl <;> simp [Cause.ofOperands]
    · exact iff_of_false (by simp) hrec.not_operandError
  | false =>
    obtain ⟨c, hc, hr⟩ := requestFrame_illFormed (ins := Config.insRead) ho hw
    rw [readCommand_error hr] at h
    cases h
    simp [OperandError, hc]

/-! ## The servo operations -/

/-- An instruction with the frame of a well-formed one is well formed. -/
theorem wellFormed_of_encode_eq {i j : Instr} (h : encode i = encode j) (hi : (encode i).isSome = true) :
    j.wellFormed = true := by
  obtain ⟨f, hf⟩ := Option.isSome_iff_exists.1 hi
  exact Laws.wellFormed_of_encode (h ▸ hf)

/-- The id check, then a command that has no ill-formed operand. -/
theorem servo_operandError_iff {legal : Bool} {command : State → Result State} {s t : State}
    (hcommand : legal = true → command s = .next t → ¬ OperandError s t)
    (h : hostOperation (fun s => if !legal then .next (s.raise .servoId) else command s) s = .next t) :
    legal = false ↔ OperandError s t := by
  obtain ⟨-, hb⟩ := hostOperation_next h
  cases legal with
  | false =>
    cases hb
    exact iff_of_true rfl ⟨.servoId, rfl, rfl⟩
  | true => exact iff_of_false (by simp) (hcommand rfl hb)

/-- A write after the diagnostics of the clamps: they are no outcome. -/
theorem writeCommand_noting_not_operandError {address : Int} {data : List Int} {s t : State} (ds : List Diagnostic)
    (ho : s.session = .opened) (hw : (Instr.write address data).wellFormed = true)
    (h : writeCommand address data (s.noting ds) = .next t) : ¬ OperandError s t := by
  have hiff := writeCommand_operandError_iff (s := s.noting ds) ho h
  rw [hw] at hiff
  exact mt hiff.2 (by simp)

theorem servoMove_operandError_iff {servoId angle speed : Int} {s t : State} (ho : s.session = .opened)
    (h : exec (.servoMove servoId angle speed) s = .next t) : servoIdLegal servoId = false ↔ OperandError s t := by
  obtain ⟨h0, h1⟩ := clampSpeed_mem speed
  simp only [exec, execServoMove, packUint16BE_wordField h0 h1, State.noteClamp_eq, State.noting_noting] at h
  refine servo_operandError_iff (fun hid hb => ?_) h
  have hw := wellFormed_of_encode_eq (encode_servoMove angle speed hid) (by simp [encode, Instr.wellFormed, hid])
  exact writeCommand_noting_not_operandError _ ho hw hb

theorem calibrateServo_operandError_iff {servoId deviation : Int} {s t : State} (ho : s.session = .opened)
    (h : exec (.calibrateServo servoId deviation) s = .next t) : servoIdLegal servoId = false ↔ OperandError s t := by
  obtain ⟨h0, h1⟩ := clampDeviation_mem deviation
  simp only [exec, execCalibrateServo, packUint16BE_wordField h0 h1, State.noteClamp_eq] at h
  refine servo_operandError_iff (fun hid hb => ?_) h
  have hw := wellFormed_of_encode_eq (encode_calibrateServo deviation hid) (by simp [encode, Instr.wellFormed, hid])
  exact writeCommand_noting_not_operandError _ ho hw hb

theorem readServoAngle_operandError_iff {servoId : Int} {s t : State} (ho : s.session = .opened)
    (h : exec (.readServoAngle servoId) s = .next t) : servoIdLegal servoId = false ↔ OperandError s t := by
  refine servo_operandError_iff (fun hid hb => ?_) h
  have hw := wellFormed_of_encode_eq (encode_readServoAngle hid) (by simp [encode, Instr.wellFormed, hid])
  exact mt (readCommand_operandError_iff ho hb).2 (by simp [hw])

/-! ## Every instruction -/

/-- Settles O42: the checks of each instruction are those of its well-formedness, and nothing after them is an operand error. -/
theorem operandErrorsAreTheIllFormedOnes : Obligations.OperandErrorsAreTheIllFormedOnes := by
  intro i s t hp ho h
  cases i with
  | checksum payload => exact codec_operandError_iff h checksum_legal checksum_illFormed
  | buildFrame instruction address data => exact codec_operandError_iff h buildFrame_legal buildFrame_illFormed
  | packUint16BE value => exact codec_operandError_iff h packUint16BE_legal packUint16BE_illFormed
  | unpackUint16BE bytes => exact codec_operandError_iff h unpackUint16BE_legal unpackUint16BE_illFormed
  | openSession =>
    refine iff_of_false (by simp [Instr.wellFormed]) ?_
    rcases (exec_effect h).openSession_cases with rfl | rfl <;> simp [Cause.ofOperands]
  | closeSession =>
    refine iff_of_false (by simp [Instr.wellFormed]) ?_
    simp [(exec_effect h).closeSession_eq]
  | write address data => exact writeCommand_operandError_iff ho (hostOperation_next h).2
  | read address data => exact readCommand_operandError_iff ho (hostOperation_next h).2
  | torqueOn => exact writeCommand_operandError_iff ho (hostOperation_next h).2
  | torqueOff => exact writeCommand_operandError_iff ho (hostOperation_next h).2
  | servoMove servoId angle speed => exact servoMove_operandError_iff ho h
  | readServoAngle servoId => exact readServoAngle_operandError_iff ho h
  | calibrateServo servoId deviation => exact calibrateServo_operandError_iff ho h
  | readBatteryLevel => exact readCommand_operandError_iff ho (hostOperation_next h).2
  | readRawImuAngle => exact readCommand_operandError_iff ho (hostOperation_next h).2
  | readImuAngle => exact readCommand_operandError_iff ho (hostOperation_next h).2
  | getImuAngle => exact readCommand_operandError_iff ho (hostOperation_next h).2
  | getRawImuData => exact readCommand_operandError_iff ho (hostOperation_next h).2
  | response =>
    simp only [exec, execResponse, hp, ho] at h
    have hrec := received_of_readHead (s := { s.discard with phase := .readHead }) rfl 1 h
    exact iff_of_false (by simp [Instr.wellFormed]) hrec.not_operandError

end Sys2Proof.Machine
end

section
/-! The decoder's frames (O47, O48; R51, R60, R66): a well-formed frame is made of its own fields, so what decodes is a built frame
with the rest behind it, and nothing else does. -/

namespace Sys2Proof.Machine

theorem frameWellFormed_iff (f : List Byte) : frameWellFormed f = true ↔
    8 ≤ f.length ∧ byteAt f 0 = 0x55 ∧ byteAt f 1 = 0x00 ∧ (byteAt f 2).toNat = f.length ∧
      byteAt f (f.length - 2) = 0x00 ∧ byteAt f (f.length - 1) = 0xAA ∧
      byteAt f (f.length - 3) = checksumByte (slice f 2 (f.length - 3)) := by
  simp [frameWellFormed, and_assoc]

theorem byteAt_append_left {xs : List Byte} (ys : List Byte) {k : Nat} (h : k < xs.length) :
    byteAt (xs ++ ys) k = byteAt xs k := by
  simp [byteAt, List.getD_eq_getElem?_getD, List.getElem?_append_left h]

theorem byteAt_take {bs : List Byte} {k n : Nat} (h : k < n) : byteAt (bs.take n) k = byteAt bs k := by
  simp [byteAt, List.getD_eq_getElem?_getD, h]

theorem byteAt_append_length_sub {xs ys : List Byte} {k : Nat} (h : k ≤ ys.length) :
    byteAt (xs ++ ys) ((xs ++ ys).length - k) = byteAt ys (ys.length - k) := by
  rw [List.length_append, Nat.add_sub_assoc h, byteAt_append_right]

theorem slice_append_length_sub {xs ys : List Byte} {a k : Nat} (h : ys.length = k) :
    slice (xs ++ ys) a ((xs ++ ys).length - k) = xs.drop a := by simp [slice, ← h]

/-- A well-formed frame decodes by its own fields, whatever follows it. -/
theorem decode_append {f : List Byte} (rest : List Byte) (h : frameWellFormed f = true) :
    decode (f ++ rest) = .ok (operationOf (byteAt f 3) (byteAt f 4) (framePayload f f.length), rest) := by
  obtain ⟨h8, h0, h1, hlen, htail0, htail1, hchk⟩ := (frameWellFormed_iff f).1 h
  have b0 := byteAt_append_left rest (by omega : 0 < f.length)
  have b1 := byteAt_append_left rest (by omega : 1 < f.length)
  have b2 := byteAt_append_left rest (by omega : 2 < f.length)
  have hshort : ¬ f.length + rest.length < 3 := by omega
  have h8' : ¬ f.length < Config.lenOverhead := Nat.not_lt.2 h8
  simp [decode, b0, b1, b2, h0, h1, hlen, hshort, h8', htail0, htail1, ← hchk]

/-- The decoder's checks are those of R60: whatever decodes starts with a well-formed frame. -/
theorem frameWellFormed_of_decode {bs rest : List Byte} {i : Instr} (h : decode bs = .ok (i, rest)) :
    ∃ f, frameWellFormed f = true ∧ bs = f ++ rest := by
  simp only [decode] at h
  split_ifs at h with _ hhead h8 hlen htail hchk
  cases h
  obtain ⟨n, hn⟩ : ∃ n, (byteAt bs 2).toNat = n := ⟨_, rfl⟩
  rw [hn] at h8 hlen htail hchk ⊢
  have h8 : 8 ≤ n := Nat.not_lt.1 h8
  have hl : (bs.take n).length = n := List.length_take_of_le (Nat.not_lt.1 hlen)
  have hat : ∀ k < 8, byteAt (bs.take n) k = byteAt bs k := fun k hk => byteAt_take (by omega)
  refine ⟨bs.take n, (frameWellFormed_iff _).2 ?_, (List.take_append_drop n bs).symm⟩
  rw [hl, hat 0 (by decide), hat 1 (by decide), hat 2 (by decide)]
  simp only [bne_iff_ne, Bool.or_eq_true, not_or, not_not] at hhead htail hchk
  exact ⟨h8, hhead.1, hhead.2, hn, htail.1, htail.2, hchk⟩

/-- The fields of eight or more bytes (R51). -/
theorem exists_fields {f : List Byte} (h : 8 ≤ f.length) :
    ∃ b0 b1 len ins adr data chk x y, f = [b0, b1, len, ins, adr] ++ data ++ [chk, x, y] := by
  obtain ⟨b0, b1, len, ins, adr, hhead⟩ : ∃ b0 b1 len ins adr, f.take 5 = [b0, b1, len, ins, adr] := by
    match f, h with
    | b0 :: b1 :: len :: ins :: adr :: _, _ => exact ⟨b0, b1, len, ins, adr, rfl⟩
  have hrest : ((f.drop 5).drop (f.length - 8)).length = 3 := by simp only [List.length_drop]; omega
  obtain ⟨chk, x, y, htail⟩ := List.length_eq_three.1 hrest
  refine ⟨b0, b1, len, ins, adr, (f.drop 5).take (f.length - 8), chk, x, y, ?_⟩
  rw [← hhead, ← htail, List.append_assoc, List.take_append_drop, List.take_append_drop]

/-- The well-formed frames are the built ones: HEADER, LEN, CHK and TAIL follow from the other fields (R51, R60). -/
theorem exists_wireFrame_of_frameWellFormed {f : List Byte} (h : frameWellFormed f = true) :
    ∃ ins adr data, data.length ≤ 247 ∧ f = wireFrame ins adr data := by
  obtain ⟨h8, h0, h1, hlen, htail0, htail1, hchk⟩ := (frameWellFormed_iff f).1 h
  obtain ⟨b0, b1, len, ins, adr, data, chk, x, y, rfl⟩ := exists_fields h8
  rw [byteAt_append_length_sub (by simp)] at htail0 htail1 hchk
  rw [slice_append_length_sub (show [chk, x, y].length = 3 from rfl)] at hchk
  have hlenByte : len.toNat = data.length + 8 := hlen.trans (by simp)
  have hlt := len.isLt
  refine ⟨ins, adr, data, by omega, ?_⟩
  obtain rfl : b0 = 0x55 := h0
  obtain rfl : b1 = 0x00 := h1
  obtain rfl : x = 0x00 := htail0
  obtain rfl : y = 0xAA := htail1
  obtain rfl : chk = checksumByte (len :: ins :: adr :: data) := hchk
  rw [wireFrame, Config.lenOverhead, ← hlenByte, BitVec.ofNat_toNat, BitVec.setWidth_eq, frameBytes]

theorem decode_wireFrame_append (ins adr : Byte) {data : List Byte} (rest : List Byte) (h : data.length ≤ 247) :
    decode (wireFrame ins adr data ++ rest) = .ok (operationOf ins adr data, rest) := by
  rw [decode_append rest (Laws.wireFrame_wellFormed ins adr h), wireFrame, frameBytes_length, byteAt_frameBytes_3,
    byteAt_frameBytes_4, framePayload_frameBytes]

/-- What decodes, and to what: a built frame, to the operation of its INS, ADR and DATA. -/
theorem decode_eq_ok_iff {bs rest : List Byte} {i : Instr} :
    decode bs = .ok (i, rest) ↔
      ∃ ins adr data, data.length ≤ 247 ∧ bs = wireFrame ins adr data ++ rest ∧ i = operationOf ins adr data := by
  constructor
  · intro h
    obtain ⟨f, hf, rfl⟩ := frameWellFormed_of_decode h
    obtain ⟨ins, adr, data, hl, rfl⟩ := exists_wireFrame_of_frameWellFormed hf
    rw [decode_wireFrame_append ins adr rest hl] at h
    cases h
    exact ⟨ins, adr, data, hl, rfl, rfl⟩
  · rintro ⟨ins, adr, data, hl, rfl, rfl⟩
    exact decode_wireFrame_append ins adr rest hl

end Sys2Proof.Machine
end

section
/-! The operations with a frame (O46 to O49; R62, R70): each named operation has the frame, the wire form and the command of one write
or read, so what holds of write and read holds of it. -/

namespace Sys2Proof.Machine

/-! ## 16-bit operands on the wire (R61) -/

theorem wordField_u16BE (hi lo : Byte) : wordField ((u16BE hi lo).toNat : Int) = [hi, lo] := by
  have hhi := hi.isLt
  have hlo := lo.isLt
  simp only [wordField, Int.toNat_natCast, toNat_u16BE, List.cons.injEq, and_true]
  constructor <;> apply BitVec.eq_of_toNat_eq <;> simp only [BitVec.toNat_ofNat] <;> omega

theorem u16BE_wordField {v : Int} (h0 : 0 ≤ v) (h1 : v ≤ 65535) :
    ((u16BE (BitVec.ofNat 8 (v.toNat / 256)) (BitVec.ofNat 8 v.toNat)).toNat : Int) = v := by
  rw [toNat_u16BE]
  simp only [BitVec.toNat_ofNat]
  omega

theorem clamp_u16 (v : U16) : clamp v.toNat 0 65535 = v.toNat := by
  have := v.isLt
  exact clamp_of_mem (by omega) (by omega)

/-! ## The operation of a frame -/

theorem writeOperation_servoMove_row {id angle : Byte} (hi lo : Byte) (hid : servoIdLegal (ofByte id) = true)
    (hangle : inRange Config.angleMin Config.angleMax (ofByte angle) = true) :
    writeOperation 0x40 [id, angle, hi, lo] = .servoMove (ofByte id) (ofByte angle) (u16BE hi lo).toNat :=
  if_pos (Bool.and_eq_true_iff.2 ⟨hid, hangle⟩)

theorem writeOperation_calibrateServo_row {id : Byte} (hi lo : Byte) (hid : servoIdLegal (ofByte id) = true) :
    writeOperation 0x28 [id, hi, lo] = .calibrateServo (ofByte id) (u16BE hi lo).toNat := if_pos hid

theorem readOperation_readServoAngle_row {id : Byte} (hid : servoIdLegal (ofByte id) = true) :
    readOperation 0x50 [id] = .readServoAngle (ofByte id) := if_pos hid

theorem ofByte_toByte_servoId {v : Int} (h : servoIdLegal v = true) : ofByte (toByte v) = v := by
  obtain ⟨h0, h1⟩ := (isByte_iff v).1 (isByte_of_servoIdLegal h)
  exact ofByte_toByte h0 h1

theorem writeOperation_servoMove {servoId : Int} (angle speed : Int) (h : servoIdLegal servoId = true) :
    writeOperation 0x40 (toByte servoId :: toByte (clampAngle angle) :: wordField (clampSpeed speed)) =
      .servoMove servoId (clampAngle angle) (clampSpeed speed) := by
  obtain ⟨ha0, ha1⟩ := clampAngle_mem angle
  obtain ⟨hv0, hv1⟩ := clampSpeed_mem speed
  have hid := ofByte_toByte_servoId h
  have ha : ofByte (toByte (clampAngle angle)) = clampAngle angle := ofByte_toByte ha0 (by omega)
  have hangle : inRange Config.angleMin Config.angleMax (clampAngle angle) = true := (inRange_iff _ _ _).2 ⟨ha0, ha1⟩
  rw [wordField, writeOperation_servoMove_row _ _ (by rwa [hid]) (by rwa [ha]), hid, ha, u16BE_wordField hv0 hv1]

theorem writeOperation_calibrateServo {servoId : Int} (deviation : Int) (h : servoIdLegal servoId = true) :
    writeOperation 0x28 (toByte servoId :: wordField (clampDeviation deviation)) =
      .calibrateServo servoId (clampDeviation deviation) := by
  obtain ⟨hv0, hv1⟩ := clampDeviation_mem deviation
  have hid := ofByte_toByte_servoId h
  rw [wordField, writeOperation_calibrateServo_row _ _ (by rwa [hid]), hid, u16BE_wordField hv0 hv1]

theorem readOperation_readServoAngle {servoId : Int} (h : servoIdLegal servoId = true) :
    readOperation 0x50 [toByte servoId] = .readServoAngle servoId := by
  have hid := ofByte_toByte_servoId h
  rw [readOperation_readServoAngle_row (by rwa [hid]), hid]

/-- The operation that a write frame is read as has the frame of that write (R62). -/
theorem encode_writeOperation (adr : Byte) (data : List Byte) :
    encode (writeOperation adr data) = encode (.write (ofByte adr) (data.map ofByte)) := by
  unfold writeOperation
  split
  · rfl
  · rfl
  · next id hi lo =>
    split
    · next hid =>
      have hv : clampDeviation (u16BE hi lo).toNat = (u16BE hi lo).toNat := clamp_u16 _
      rw [encode_calibrateServo _ hid, hv, wordField_u16BE]
      rfl
    · rfl
  · next id angle hi lo =>
    split
    · next h =>
      obtain ⟨hid, ha⟩ := Bool.and_eq_true_iff.1 h
      obtain ⟨ha0, ha1⟩ := (inRange_iff _ _ _).1 ha
      have ha : clampAngle (ofByte angle) = ofByte angle := clamp_of_mem ha0 ha1
      have hv : clampSpeed (u16BE hi lo).toNat = (u16BE hi lo).toNat := clamp_u16 _
      rw [encode_servoMove _ _ hid, ha, hv, wordField_u16BE]
      rfl
    · rfl
  · rfl

theorem encode_readOperation (adr : Byte) (data : List Byte) :
    encode (readOperation adr data) = encode (.read (ofByte adr) (data.map ofByte)) := by
  unfold readOperation
  split
  · split
    · next hid => exact encode_readServoAngle hid
    · rfl
  all_goals rfl

/-- The operands of a decoded write or read are legal. -/
theorem bytes_legal (adr : Byte) {data : List Byte} (h : data.length ≤ 247) :
    (isByte (ofByte adr) && validateData (data.map ofByte) && decide ((data.map ofByte).length ≤ maxEncodable)) = true := by
  have hl : (data.map ofByte).length ≤ maxEncodable := by simpa [maxEncodable, Config.lenOverhead] using h
  simp only [(isByte_iff _).2 (ofByte_mem adr), validateData_ofByte, hl, decide_true, Bool.and_self]

theorem encode_buildFrame {instruction address : Int} {data : List Byte}
    (h : (Instr.buildFrame instruction address data).wellFormed = true) :
    encode (.buildFrame instruction address data) = some (wireFrame (toByte instruction) (toByte address) data) := by
  simp only [encode, h]
  rfl

/-- The encoder gives back the frame that an operation was read from. -/
theorem encode_operationOf (ins adr : Byte) {data : List Byte} (h : data.length ≤ 247) :
    encode (operationOf ins adr data) = some (wireFrame ins adr data) := by
  unfold operationOf
  split
  · rw [encode_writeOperation, encode_write (bytes_legal adr h), toByte_ofByte, map_toByte_ofByte]
    rfl
  · rw [encode_readOperation, encode_read (bytes_legal adr h), toByte_ofByte, map_toByte_ofByte]
    rfl
  · rw [encode_buildFrame ?_, toByte_ofByte, toByte_ofByte]
    have hl : data.length ≤ maxEncodable := h
    simp only [Instr.wellFormed, (isByte_iff _).2 (ofByte_mem ins), (isByte_iff _).2 (ofByte_mem adr), hl, decide_true,
      Bool.and_self]

/-! ## The named operations, in full (R112 to R117, R131 to R135) -/

/-- `i` has the frame, the wire form and the command of this write; only clamps come before it. -/
structure IsWrite (i : Instr) (address : Int) (data : List Int) : Prop where
  encode_eq : encode i = encode (.write address data)
  onWire_eq : i.onWire = writeOperation (toByte address) (data.map toByte)
  exec_eq : ∀ s : State, s.phase = .idle → ∃ ds, exec i s = writeCommand address data (s.noting ds)

/-- `i` has the frame, the wire form and the command of this read. -/
structure IsRead (i : Instr) (form : PayloadForm) (address : Int) (data : List Int) : Prop where
  encode_eq : encode i = encode (.read address data)
  onWire_eq : i.onWire = readOperation (toByte address) (data.map toByte)
  exec_eq : ∀ s : State, s.phase = .idle → exec i s = readCommand form address data s

/-- A write-type operation without operands of its own. -/
theorem isWrite_of_exec {i : Instr} {address : Int} {data : List Int} (hencode : encode i = encode (.write address data))
    (honWire : i.onWire = writeOperation (toByte address) (data.map toByte))
    (hexec : ∀ s, exec i s = hostOperation (writeCommand address data) s) : IsWrite i address data :=
  ⟨hencode, honWire, fun s hp => ⟨[], by rw [hexec, hostOperation_idle hp, State.noting_nil]⟩⟩

theorem isRead_of_exec {i : Instr} {form : PayloadForm} {address : Int} {data : List Int}
    (hencode : encode i = encode (.read address data)) (honWire : i.onWire = readOperation (toByte address) (data.map toByte))
    (hexec : ∀ s, exec i s = hostOperation (readCommand form address data) s) : IsRead i form address data :=
  ⟨hencode, honWire, fun s hp => by rw [hexec, hostOperation_idle hp]⟩

theorem isWrite_servoMove {servoId : Int} (angle speed : Int) (h : servoIdLegal servoId = true) :
    IsWrite (.servoMove servoId angle speed) Config.adrServoMove
      (servoId :: clampAngle angle :: (wordField (clampSpeed speed)).map ofByte) where
  encode_eq := encode_servoMove angle speed h
  onWire_eq := by
    rw [List.map_cons, List.map_cons, map_toByte_ofByte]
    exact (writeOperation_servoMove angle speed h).symm
  exec_eq s hp := by
    obtain ⟨h0, h1⟩ := clampSpeed_mem speed
    simp only [exec, execServoMove, hostOperation_idle hp, h, packUint16BE_wordField h0 h1, State.noteClamp_eq,
      State.noting_noting]
    exact ⟨_, rfl⟩

theorem isWrite_calibrateServo {servoId : Int} (deviation : Int) (h : servoIdLegal servoId = true) :
    IsWrite (.calibrateServo servoId deviation) Config.adrCalibrate
      (servoId :: (wordField (clampDeviation deviation)).map ofByte) where
  encode_eq := encode_calibrateServo deviation h
  onWire_eq := by
    rw [List.map_cons, map_toByte_ofByte]
    exact (writeOperation_calibrateServo deviation h).symm
  exec_eq s hp := by
    obtain ⟨h0, h1⟩ := clampDeviation_mem deviation
    simp only [exec, execCalibrateServo, hostOperation_idle hp, h, packUint16BE_wordField h0 h1, State.noteClamp_eq]
    exact ⟨_, rfl⟩

theorem isRead_readServoAngle {servoId : Int} (h : servoIdLegal servoId = true) :
    IsRead (.readServoAngle servoId) .raw Config.adrServoAngle [servoId] where
  encode_eq := encode_readServoAngle h
  onWire_eq := (readOperation_readServoAngle h).symm
  exec_eq s hp := by
    simp only [exec, execReadServoAngle, hostOperation_idle hp, h]
    rfl

/-- The operations with a frame: buildFrame, the writes and the reads. -/
theorem cases_of_encode {i : Instr} {f : List Byte} (h : encode i = some f) :
    (∃ instruction address data, i = .buildFrame instruction address data) ∨
      (∃ address data, IsWrite i address data) ∨ ∃ form address data, IsRead i form address data := by
  have hw := Laws.wellFormed_of_encode h
  have hnone : encode i ≠ none := by simp [h]
  cases i with
  | checksum payload => exact absurd (by simp [encode]) hnone
  | buildFrame instruction address data => exact .inl ⟨_, _, _, rfl⟩
  | packUint16BE value => exact absurd (by simp [encode]) hnone
  | unpackUint16BE bytes => exact absurd (by simp [encode]) hnone
  | openSession => exact absurd (by simp [encode]) hnone
  | closeSession => exact absurd (by simp [encode]) hnone
  | write address data => exact .inr (.inl ⟨_, _, isWrite_of_exec rfl rfl fun _ => rfl⟩)
  | read address data => exact .inr (.inr ⟨_, _, _, isRead_of_exec rfl rfl fun _ => rfl⟩)
  | torqueOn => exact .inr (.inl ⟨_, _, isWrite_of_exec rfl rfl fun _ => rfl⟩)
  | torqueOff => exact .inr (.inl ⟨_, _, isWrite_of_exec rfl rfl fun _ => rfl⟩)
  | servoMove servoId angle speed => exact .inr (.inl ⟨_, _, isWrite_servoMove angle speed hw⟩)
  | readServoAngle servoId => exact .inr (.inr ⟨_, _, _, isRead_readServoAngle hw⟩)
  | calibrateServo servoId deviation => exact .inr (.inl ⟨_, _, isWrite_calibrateServo deviation hw⟩)
  | readBatteryLevel => exact .inr (.inr ⟨_, _, _, isRead_of_exec rfl rfl fun _ => rfl⟩)
  | readRawImuAngle => exact .inr (.inr ⟨_, _, _, isRead_of_exec rfl rfl fun _ => rfl⟩)
  | readImuAngle => exact .inr (.inr ⟨_, _, _, isRead_of_exec rfl rfl fun _ => rfl⟩)
  | getImuAngle => exact .inr (.inr ⟨_, _, _, isRead_of_exec rfl rfl fun _ => rfl⟩)
  | getRawImuData => exact .inr (.inr ⟨_, _, _, isRead_of_exec rfl rfl fun _ => rfl⟩)
  | response => exact absurd (by simp [encode]) hnone

/-! ## Decode and encode agree -/

/-- The fields of an operation's frame say which operation the wire shows. -/
theorem exists_wireFrame_of_encode {i : Instr} {f : List Byte} (h : encode i = some f) :
    ∃ ins adr data, data.length ≤ 247 ∧ f = wireFrame ins adr data ∧ operationOf ins adr data = i.onWire := by
  rcases cases_of_encode h with ⟨instruction, address, data, rfl⟩ | ⟨address, data, hi⟩ | ⟨form, address, data, hi⟩
  · have hw := Laws.wellFormed_of_encode h
    obtain rfl := Option.some.inj (h.symm.trans (encode_buildFrame hw))
    exact ⟨_, _, _, Laws.EncodedFrame.data_le hw, rfl, rfl⟩
  · obtain ⟨hw, rfl⟩ := (encode_eq_some_iff encode_write).1 (hi.encode_eq ▸ h)
    exact ⟨_, _, _, by simpa using Laws.EncodedFrame.data_le hw, rfl, hi.onWire_eq.symm⟩
  · obtain ⟨hw, rfl⟩ := (encode_eq_some_iff encode_read).1 (hi.encode_eq ▸ h)
    exact ⟨_, _, _, by simpa using Laws.EncodedFrame.data_le hw, rfl, hi.onWire_eq.symm⟩

/-- Settles O47: the frame of an operation decodes by its own fields, which say what the wire shows. -/
theorem decodeOfEncodeIsTheOperation : Obligations.DecodeOfEncodeIsTheOperation := by
  intro i f rest h
  obtain ⟨ins, adr, data, hl, rfl, hop⟩ := exists_wireFrame_of_encode h
  rw [decode_wireFrame_append ins adr rest hl, hop]

/-- Settles O48: what decodes is a built frame, whose operation has that frame; by O47 it is then in the form the wire shows. -/
theorem decodedBytesAreTheEncoding : Obligations.DecodedBytesAreTheEncoding := by
  intro bs rest i h
  obtain ⟨ins, adr, data, hl, rfl, hop⟩ := decode_eq_ok_iff.1 h
  have hencode : encode i = some (wireFrame ins adr data) := hop ▸ encode_operationOf ins adr hl
  have honWire := decodeOfEncodeIsTheOperation i _ rest hencode
  rw [h] at honWire
  exact ⟨Laws.wellFormed_of_encode hencode, by simpa using honWire.symm, _, hencode, rfl, Laws.wireFrame_wellFormed ins adr hl⟩

/-! ## What an operation writes first -/

/-- From `s` to `t` the first transaction is the write of `f`. -/
def WritesFirst (f : List Byte) (s t : State) : Prop := ∃ es, t.trace = s.trace ++ .tWrite f (s.answerWrite f) :: es

theorem writesFirst_of_continued {f : List Byte} {s u t : State} (hu : u.trace = (s.afterWrite f).trace)
    (h : Continued u t) : WritesFirst f s t := by
  obtain ⟨es, k, m, o, rfl⟩ := h
  exact ⟨es, by simp [State.moved, hu]⟩

theorem writeCommand_writesFirst {address : Int} {data : List Int} {f : List Byte} {s t : State} (ho : s.session = .opened)
    (he : encode (.write address data) = some f) (h : writeCommand address data s = .next t) : WritesFirst f s t := by
  have hr := requestFrame_write_ok_iff.2 ⟨ho, he⟩
  rcases writeCommand_next h with ⟨c, hc, -⟩ | ⟨g, hg, -, rfl⟩
  · simp [hr] at hc
  · obtain rfl : f = g := by simpa [hr] using hg
    exact writesFirst_of_continued rfl (continued_deliver _ _)

theorem readCommand_writesFirst {form : PayloadForm} {address : Int} {data : List Int} {f : List Byte} {s t : State}
    (ho : s.session = .opened) (he : encode (.read address data) = some f) (h : readCommand form address data s = .next t) :
    WritesFirst f s t := by
  have hr := requestFrame_read_ok_iff.2 ⟨ho, he⟩
  rcases readCommand_next h with ⟨c, hc, -⟩ | ⟨g, hg, -, hsent⟩
  · simp [hr] at hc
  · obtain rfl : f = g := by simpa [hr] using hg
    rcases hsent with ⟨c, -, -, rfl⟩ | ⟨-, hrec⟩
    · exact writesFirst_of_continued rfl (continued_deliver _ _)
    · exact writesFirst_of_continued rfl hrec.continued

theorem buildFrame_of_encode {instruction address : Int} {data f : List Byte}
    (h : encode (.buildFrame instruction address data) = some f) : buildFrame instruction address data = .ok f := by
  obtain ⟨hw, rfl⟩ := (encode_eq_some_iff encode_buildFrame).1 h
  simp only [Instr.wellFormed, Bool.and_eq_true, isByte_iff, decide_eq_true_eq] at hw
  obtain ⟨⟨hi, ha⟩, hl⟩ := hw
  exact buildFrame_ok hi ha hl

theorem exec_buildFrame_outcomes {instruction address : Int} {data f : List Byte} {s t : State}
    (he : encode (.buildFrame instruction address data) = some f) (h : exec (.buildFrame instruction address data) s = .next t) :
    t.outcomes = s.outcomes ++ [.ok (.bytes f)] := by
  have h : execBuildFrame instruction address data s = .next t := h
  obtain ⟨-, hb⟩ := hostOperation_next h
  rw [buildFrame_of_encode he] at hb
  cases hb
  rfl

/-- Settles O49: a write or a read starts with the transaction of its request, and buildFrame delivers its frame. -/
theorem sentFramesAreTheEncodings : Obligations.SentFramesAreTheEncodings := by
  intro i s t f he hp ho h
  by_cases hb : ∃ instruction address data, i = .buildFrame instruction address data
  · obtain ⟨instruction, address, data, rfl⟩ := hb
    exact ⟨fun _ => exec_buildFrame_outcomes he h, fun hne => absurd rfl (hne _ _ _)⟩
  · refine ⟨fun hb' => absurd hb' hb, fun _ => ?_⟩
    rcases cases_of_encode he with hb' | ⟨address, data, hi⟩ | ⟨form, address, data, hi⟩
    · exact absurd hb' hb
    · obtain ⟨ds, hexec⟩ := hi.exec_eq s hp
      exact writeCommand_writesFirst (s := s.noting ds) ho (hi.encode_eq ▸ he) (hexec ▸ h)
    · exact readCommand_writesFirst ho (hi.encode_eq ▸ he) (hi.exec_eq s hp ▸ h)

/-! ## Frames written out -/

theorem decode_of_encode {i : Instr} {f : List Byte} (h : encode i = some f) : decode f = .ok (i.onWire, []) := by
  simpa using decodeOfEncodeIsTheOperation i f [] h

/-- The pattern of RESPONSE is its header (R70). -/
theorem decodeTableWord_response : decodeTableWord 16 0x5500 = some .response := rfl

/-- Settles O46: the five frames are encodings, so O47 says what they decode to. -/
theorem writtenOutFramesDecode : Obligations.WrittenOutFramesDecode :=
  ⟨decode_of_encode (i := .torqueOn) (by decide), decode_of_encode (i := .servoMove 5 90 400) (by decide),
    decode_of_encode (i := .calibrateServo 3 0x1234) (by decide), decode_of_encode (i := .write 0x10 [1, 2, 3]) (by decide),
    decode_of_encode (i := .readRawImuAngle) (by decide), rfl, decodeTableWord_response⟩

end Sys2Proof.Machine
end

section
/-! Instruction words and a response on its own (O34, O54; R69, R70, log 5). -/

namespace Sys2Proof.Machine

theorem withFetchWord_of_decode {s : State} {nbits w : Nat} {i : Instr} (h : decodeTableWord nbits w = some i)
    (hne : i ≠ .response) : s.withFetchWord nbits w = { s with phase := .idle, program := i :: s.program } := by
  simp only [State.withFetchWord, h]

theorem withFetchWord_of_response {s : State} {nbits w : Nat} (h : decodeTableWord nbits w = some .response) :
    s.withFetchWord nbits w =
      { s.withReceived (tableBytes nbits w) with phase := .idle, program := .response :: s.program } := by
  simp only [State.withFetchWord, h]

/-- Settles O54: the word's instruction is put at the head of the program, which is where a step takes it from (O53). -/
theorem stepRunsTheDecodedWord : Obligations.StepRunsTheDecodedWord := by
  intro s nbits w i h
  constructor
  · intro hne
    rw [withFetchWord_of_decode h hne, step, nextOperation_issue rfl rfl]
  · rintro rfl
    rw [withFetchWord_of_response h, step, nextOperation_issue rfl rfl]
    rfl

/-- What is left of a received frame without header, INS, ADR, CHK and tail (R110). -/
theorem framePayload_received {n : Byte} {mid tail : List Byte} (hn : mid.length + 5 = n.toNat) :
    framePayload ([0x55, 0x00, n] ++ (mid ++ tail)) n.toNat = (mid.drop 2).dropLast := by
  have hnone : mid.length - 3 - (mid.length - 2) = 0 := by omega
  have hsub : mid.length - 2 - 1 = mid.length - 3 := Nat.sub_sub _ 2 1
  simp [framePayload, slice, ← hn, List.drop_take, List.dropLast_eq_take, List.drop_append, List.take_append, hnone, hsub]

/-- The last bytes of a received frame. -/
theorem byteAt_received_sub {n : Byte} {mid tail : List Byte} {k : Nat} (hn : mid.length + tail.length + 3 = n.toNat)
    (hk : k ≤ tail.length) : byteAt ([0x55, 0x00, n] ++ (mid ++ tail)) (n.toNat - k) = byteAt tail (tail.length - k) := by
  have hlen : n.toNat = ([0x55, 0x00, n] ++ mid ++ tail).length := by
    simp only [List.length_append, List.length_cons, List.length_nil]
    omega
  rw [hlen, ← List.append_assoc, byteAt_append_length_sub hk]

/-- The second read of a complete response (R108 to R110). -/
theorem advances_readBody_received {s : State} {n : Byte} {mid : List Byte} (hp : s.phase = .readBody)
    (hhead : s.rxHead = [0x55, 0x00, n]) (hn : mid.length + 5 = n.toNat)
    (hbody : s.answerRead (n.toNat - 3) 1 = .ok (mid ++ [0x00, 0xAA])) (k : Nat) :
    advances (k + 3) s =
      .next ((s.afterRead (n.toNat - 3) 1).deliver (payloadOutcome s.form (mid.drop 2).dropLast)) := by
  have hlen : s.rxLen = n.toNat := by rw [State.rxLen, hhead]; rfl
  have hall : (mid ++ [0x00, 0xAA] : List Byte).length = n.toNat - 3 := by
    simp only [List.length_append, List.length_cons, List.length_nil]
    omega
  have hcontract : readContract (n.toNat - 3) (.ok (mid ++ [0x00, 0xAA])) = true := by
    simp only [readContract, hall, le_refl, decide_true]
  have htail0 := byteAt_received_sub (tail := [0x00, 0xAA]) (k := 2) hn (by decide)
  have htail1 := byteAt_received_sub (tail := [0x00, 0xAA]) (k := 1) hn (by decide)
  rw [advances_readBody hp k (by rwa [hlen, hbody]), hlen, hbody, hhead]
  simp only [hall, lt_irrefl, if_false, htail0, htail1, framePayload_received hn]
  rfl

/-- The response protocol on a complete response (R105 to R110). -/
theorem runSequencer_received {s : State} {n : Byte} {mid : List Byte} (hp : s.phase = .readHead)
    (h : s.receives n (mid ++ [0x00, 0xAA])) :
    runSequencer s = .next ((s.afterResponse n).deliver (payloadOutcome s.form (mid.drop 2).dropLast)) := by
  obtain ⟨hhead, hn, hbody, hl⟩ := h
  have hlen : mid.length + 5 = n.toNat := by
    simp only [List.length_append, List.length_cons, List.length_nil] at hl
    omega
  have hlong : ¬ (byteAt [0x55, 0x00, n] 2).toNat < 5 := Nat.not_lt.2 hn
  rw [runSequencer, advances_readHead hp 1 (by rw [hhead]; rfl), hhead]
  simp only
  rw [if_neg (by simp), if_neg (by simp [byteAt]), if_neg hlong]
  exact advances_readBody_received (s := { s.afterRead 3 1 with rxHead := [0x55, 0x00, n], phase := .readBody }) rfl rfl hlen hbody 1

theorem exec_response_opened {s : State} (hp : s.phase = .idle) (ho : s.session = .opened) :
    exec .response s = runSequencer { s.discard with phase := .readHead } := by
  simp only [exec, execResponse, hp, ho]

/-- Settles O34: a state at rest holds nothing that the first step of the protocol would drop. -/
theorem responseAtRestRunsTheProtocol : Obligations.ResponseAtRestRunsTheProtocol := by
  intro s hrest ho
  obtain ⟨hp, -, -, -, -, hform⟩ := (State.atRest_iff s).1 hrest
  have hstart : exec .response s = runSequencer { s with phase := .readHead } := by
    rw [exec_response_opened hp ho, State.discard_of_atRest hrest]
  refine ⟨by rw [hstart, exec_response_busy (by simp)], fun n mid h => ?_⟩
  have hafter : (s.afterResponse n).atRest = true := hrest
  rw [hstart, runSequencer_received (s := { s with phase := .readHead }) rfl h, hform]
  exact congrArg _ (State.deliver_of_atRest hafter _)

end Sys2Proof.Machine
end

section
/-! The Frame Codec (O1 to O6; R80 to R87): the end of a codec operation said once, and the fields of a built frame in plain numbers. -/

namespace Sys2Proof.Machine

/-! ## The end of a codec operation -/

/-- The outcome with which a codec operation ends. -/
def codecOutcome {α : Type} (wrap : α → Value) : Except Cause α → OpOutcome
  | .ok v => .ok (wrap v)
  | .error c => .err c

theorem finish_eq_deliver {α : Type} (r : Except Cause α) (wrap : α → Value) (s : State) :
    finish r wrap s = s.deliver (codecOutcome wrap r) := by
  cases r with
  | ok v => rfl
  | error c => rfl

/-- Between operations a codec operation adds its outcome and moves nothing else. -/
theorem codec_of_atRest {α : Type} {r : Except Cause α} {wrap : α → Value} {s : State} {o : OpOutcome}
    (h : s.atRest = true) (ho : codecOutcome wrap r = o) :
    hostOperation (fun s => .next (finish r wrap s)) s = .next { s with outcomes := s.outcomes ++ [o] } := by
  rw [hostOperation_idle (State.phase_of_atRest h), finish_eq_deliver, ho, State.deliver_of_atRest h]

/-! ## The checksum (R57, R80) -/

theorem toNat_checksumByte (p : List Byte) : (checksumByte p).toNat = (255 - byteSum p % 256) % 256 := by
  rw [checksumByte, BitVec.toNat_ofNat]
  exact Nat.mod_mod _ _

theorem checksumByte_eq_ofNat (p : List Byte) : checksumByte p = BitVec.ofNat 8 (255 - byteSum p % 256) := by
  rw [checksumByte, Nat.mod_eq_of_lt (by omega)]

theorem byteSum_add_checksumByte (p : List Byte) : (byteSum p + (checksumByte p).toNat) % 256 = 255 := by
  rw [toNat_checksumByte]
  omega

/-- Settles O1, by the two forms of the payload. -/
theorem checksumReturnsComplementOfSum : Obligations.ChecksumReturnsComplementOfSum := by
  refine ⟨fun s h => codec_of_atRest h rfl, rfl, fun s p h hp => ?_⟩
  obtain ⟨b, bs, rfl⟩ := List.exists_cons_of_ne_nil hp
  exact ⟨_, codec_of_atRest h rfl, toNat_checksumByte _, byteSum_add_checksumByte _⟩

/-! ## The built frame (R81, R85) -/

theorem toByte_eq_ofInt {v : Int} (h : 0 ≤ v) : toByte v = BitVec.ofInt 8 v := by
  rw [toByte, ← BitVec.ofInt_natCast, Int.toNat_of_nonneg h]

theorem toNat_toByte {v : Int} (h : v ≤ 255) : (toByte v).toNat = v.toNat := by
  rw [toByte, BitVec.toNat_ofNat]
  omega

/-- The sum that CHK complements, over the operands themselves (R57). -/
theorem byteSum_body {ins adr : Int} {data : List Byte} (hi : ins ≤ 255) (ha : adr ≤ 255) (hl : data.length ≤ 247) :
    byteSum (BitVec.ofNat 8 (data.length + 8) :: toByte ins :: toByte adr :: data) =
      data.length + 8 + ins.toNat + adr.toNat + (data.map BitVec.toNat).sum := by
  simp only [byteSum, List.map_cons, List.sum_cons, toNat_lenByte hl, toNat_toByte hi, toNat_toByte ha]
  omega

/-- The built frame, field by field (R51, R53, R57). -/
theorem frameBytes_eq_fields {ins adr : Int} {data : List Byte} (hi : 0 ≤ ins ∧ ins ≤ 255) (ha : 0 ≤ adr ∧ adr ≤ 255)
    (hl : data.length ≤ 247) :
    frameBytes (BitVec.ofNat 8 (data.length + 8)) (toByte ins) (toByte adr) data =
      [0x55, 0x00, BitVec.ofNat 8 (data.length + 8), BitVec.ofInt 8 ins, BitVec.ofInt 8 adr] ++ data ++
        [BitVec.ofNat 8 (255 - (data.length + 8 + ins.toNat + adr.toNat + (data.map BitVec.toNat).sum) % 256), 0x00, 0xAA] := by
  rw [frameBytes, checksumByte_eq_ofNat, byteSum_body hi.2 ha.2 hl, toByte_eq_ofInt hi.1, toByte_eq_ofInt ha.1]

/-- Settles O2, check by check. -/
theorem buildFrameReturnsFrameOrError : Obligations.BuildFrameReturnsFrameOrError := by
  refine ⟨fun s ins adr data h => codec_of_atRest h ?_, rfl, rfl, rfl, rfl⟩
  have outside (v : Int) : ¬(0 ≤ v ∧ v ≤ 255) ↔ v < 0 ∨ 255 < v := by omega
  simp only [buildFrame_eq, outside]
  split_ifs with hi ha hlong hlen
  · rfl
  · rfl
  · rfl
  · rfl
  · exact congrArg (OpOutcome.ok ∘ Value.bytes) (frameBytes_eq_fields (by omega) (by omega) (by omega))

/-- Settles O6: the bytes that CHK covers start with LEN, so their checksum is the byte put behind them. -/
theorem builtFrameKeepsChecksumLaw : Obligations.BuiltFrameKeepsChecksumLaw := by
  intro ins adr data hi0 hi1 ha0 ha1 hl
  refine ⟨_, buildFrame_ok ⟨hi0, hi1⟩ ⟨ha0, ha1⟩ hl, ?_⟩
  have hchk : data.length + 8 - 3 = data.length + 5 := by omega
  rw [byteAt_frameBytes_2, toNat_lenByte hl, frameBytes_length, hchk, slice_frameBytes_body, byteAt_frameBytes_chk]
  exact ⟨rfl, rfl, checksum_cons _ _, frameBytes_wellFormed _ _ hl⟩

/-! ## 16-bit fields (R82, R83, R86) -/

/-- The bytes of a field by shift and mask, as R82 writes them. -/
theorem packUint16BE_shift {n : Nat} (h : n ≤ 65535) :
    packUint16BE n = .ok [BitVec.ofNat 8 (n >>> 8), BitVec.ofNat 8 (n &&& 0xFF)] := by
  have hmask : n &&& 0xFF = n % 256 := Nat.and_two_pow_sub_one_eq_mod n 8
  rw [packUint16BE_ok (by omega) (by omega), Int.toNat_natCast, Nat.shiftRight_eq_div_pow, hmask]

theorem unpackUint16BE_error {bs : List Byte} (h : bs.length ≠ 2) : unpackUint16BE bs = .error .u16Len := by
  unfold unpackUint16BE
  split
  · exact absurd rfl h
  · rfl

/-- The value of a field by shift and or, as R83 writes it. -/
theorem toNat_u16BE_shift (hi lo : Byte) : (u16BE hi lo).toNat = hi.toNat <<< 8 ||| lo.toNat := by
  rw [u16BE_eq_append, BitVec.toNat_append]

theorem packUint16BE_u16BE (hi lo : Byte) : packUint16BE (u16BE hi lo).toNat = .ok [hi, lo] := by
  have hlt := (u16BE hi lo).isLt
  rw [packUint16BE_wordField (by omega) (by omega), wordField_u16BE]

/-- Settles O3: quotient and remainder by 256 are the shift and the mask. -/
theorem packReturnsHighByteFirst : Obligations.PackReturnsHighByteFirst :=
  ⟨fun _ _ h hv => codec_of_atRest h (congrArg _ (packUint16BE_error hv)), rfl,
    fun _ _ h hv => codec_of_atRest h (congrArg _ (packUint16BE_shift hv))⟩

/-- Settles O4: two bytes side by side are the shift-or and the sum alike, and every other list is the error case. -/
theorem unpackReturnsUnsignedValue : Obligations.UnpackReturnsUnsignedValue :=
  ⟨fun _ _ h hl => codec_of_atRest h (congrArg _ (unpackUint16BE_error hl)), rfl,
    fun _ b0 b1 h => ⟨u16BE b0 b1, codec_of_atRest h rfl, toNat_u16BE_shift b0 b1, toNat_u16BE b0 b1⟩⟩

/-- Settles O5: each direction is the other's law on the two bytes of a field. -/
theorem packAndUnpackAreInverse : Obligations.PackAndUnpackAreInverse := by
  refine ⟨fun b hb => ?_, fun v hv => ?_⟩
  · obtain ⟨hi, lo, rfl⟩ := List.length_eq_two.1 hb
    exact ⟨u16BE hi lo, rfl, packUint16BE_u16BE hi lo⟩
  · exact ⟨_, _, packUint16BE_ok (by omega) (by omega), rfl, u16BE_pack hv⟩

end Sys2Proof.Machine
end

section
/-! The response protocol on its own steps (O27 to O33; R105 to R111): what RESPONSE answers from ReadHead, read by read. -/

namespace Sys2Proof.Machine

/-! ## The first read and the header (R105 to R107) -/

/-- A read in progress at its first step is the whole protocol. -/
theorem exec_response_readHead {s : State} (hp : s.phase = .readHead) : exec .response s = advances (1 + 5) s :=
  exec_response_busy (by simp [hp])

/-- A first read that is answered with an error (R105). -/
theorem exec_response_head_error {s : State} {e : TransportError} (hp : s.phase = .readHead) (ha : s.answerRead 3 1 = .err e) :
    exec .response s = .next ((s.afterRead 3 1).deliver (.err .tRead)) := by
  rw [exec_response_readHead hp, advances_readHead hp 1 (by rw [ha]; rfl), ha]

/-- A first read that is answered with fewer than three bytes (R105). -/
theorem exec_response_head_short {s : State} {hd : List Byte} (hp : s.phase = .readHead) (ha : s.answerRead 3 1 = .ok hd)
    (hl : hd.length < 3) : exec .response s = .next ((s.afterRead 3 1).deliver (.err .hdrShort)) := by
  have hc : readContract 3 (.ok hd) = true := decide_eq_true (by omega)
  rw [exec_response_readHead hp, advances_readHead hp 1 (by rwa [ha]), ha]
  exact if_pos hl

/-- The checks on three header bytes, in their order (R106, R107); the second read follows them. -/
theorem exec_response_header {s : State} {b0 b1 n : Byte} (hp : s.phase = .readHead)
    (ha : s.answerRead 3 1 = .ok [b0, b1, n]) :
    exec .response s =
      if b0 ≠ 0x55 ∨ b1 ≠ 0x00 then .next ((s.afterRead 3 1).deliver (.err .hdrBad))
      else if n.toNat < 5 then .next ((s.afterRead 3 1).deliver (.err .lenBad))
      else advances (1 + 3) { s.afterRead 3 1 with rxHead := [b0, b1, n], phase := .readBody } := by
  rw [exec_response_readHead hp, advances_readHead hp 1 (by rw [ha]; rfl), ha]
  rfl

/-- Three header bytes move the sequencer on, unexamined (R105, R16). -/
theorem advance_readHead {s : State} {hd : List Byte} (hp : s.phase = .readHead) (ha : s.answerRead 3 1 = .ok hd)
    (hl : hd.length = 3) : advance s = .next { s.afterRead 3 1 with rxHead := hd, phase := .checkHead } := by
  have hc : readContract 3 (s.answerRead 3 1) = true := by rw [ha]; exact decide_eq_true hl.le
  simp only [advance, hp, phaseReadHead, tRead_ok hc, andThen_next, ha]
  exact if_neg (Nat.not_lt.2 hl.ge)

/-- A good header with a LEN byte from 5 on moves the sequencer on, with no other check (R106, R107). -/
theorem advance_checkHead {s : State} {n : Byte} (hp : s.phase = .checkHead) (hhead : s.rxHead = [0x55, 0x00, n])
    (hn : 5 ≤ n.toNat) : advance s = .next { s with phase := .readBody } := by
  simp only [advance, hp, phaseCheckHead, State.rxLen, hhead]
  exact if_neg (Nat.not_lt.2 hn)

/-- Settles O27, by the answers to the first read. -/
theorem headerReadNeedsThreeBytes : Obligations.HeaderReadNeedsThreeBytes :=
  fun _ hp => ⟨fun _ ha => exec_response_head_error hp ha, fun _ ha hl => exec_response_head_short hp ha hl,
    fun _ ha hl => advance_readHead hp ha hl, rfl⟩

/-- Settles O28: the first of the header's checks fails. -/
theorem headerIsChecked : Obligations.HeaderIsChecked :=
  fun _ _ _ _ hp ha hbad => ⟨(exec_response_header hp ha).trans (if_pos hbad), rfl⟩

/-- Settles O29: with the header right, the second of its checks looks at LEN alone. -/
theorem receivedLengthIsAtLeastFive : Obligations.ReceivedLengthIsAtLeastFive := by
  refine ⟨fun s n hp ha hn => ?_, fun s n hp hhead hn => advance_checkHead hp hhead hn, rfl⟩
  rw [exec_response_header hp ha, if_neg (by simp), if_pos hn]
  rfl

/-! ## The second read and the frame (R108 to R111) -/

/-- With which outcome the answer to the second read ends an operation, after a header with the LEN byte `n` (R108 to R110). -/
def bodyOutcome (form : PayloadForm) (n : Byte) : Answer (List Byte) → OpOutcome
  | .err _ => .err .tRead
  | .ok b =>
    if b.length < n.toNat - 3 then .err .bodyShort
    else if byteAt ([0x55, 0x00, n] ++ b) (n.toNat - 2) ≠ 0x00 ∨ byteAt ([0x55, 0x00, n] ++ b) (n.toNat - 1) ≠ 0xAA then
      .err .tailBad
    else payloadOutcome form (framePayload ([0x55, 0x00, n] ++ b) n.toNat)

/-- After a good header the answer to the second read alone decides. -/
theorem exec_response_body {s : State} {n : Byte} {a : Answer (List Byte)} (hp : s.phase = .readHead)
    (hhead : s.answerRead 3 1 = .ok [0x55, 0x00, n]) (hn : 5 ≤ n.toNat)
    (ha : (s.afterRead 3 1).answerRead (n.toNat - 3) 1 = a) (hc : readContract (n.toNat - 3) a = true) :
    exec .response s = .next ((s.afterResponse n).deliver (bodyOutcome s.form n a)) := by
  subst ha
  rw [exec_response_header hp hhead, if_neg (by simp), if_neg (Nat.not_lt.2 hn)]
  exact advances_readBody (s := { s.afterRead 3 1 with rxHead := [0x55, 0x00, n], phase := .readBody }) rfl 1 hc

/-- Settles O30: an error and a short body are answers within the contract. -/
theorem bodyReadNeedsTheWholeFrame : Obligations.BodyReadNeedsTheWholeFrame := by
  refine fun s n hp hhead hn => ⟨fun e ha => exec_response_body hp hhead hn ha rfl, fun b ha hl => ?_, rfl⟩
  rw [exec_response_body hp hhead hn ha (decide_eq_true hl.le), bodyOutcome, if_pos hl]
  rfl

/-- Settles O31: the last two bytes of the frame are those of the body. -/
theorem tailIsChecked : Obligations.TailIsChecked := by
  intro s n x y mid hp ⟨hhead, hn, hbody, hl⟩ hbad
  have hlen : mid.length + 2 + 3 = n.toNat := by
    simp only [List.length_append, List.length_cons, List.length_nil] at hl
    omega
  have hx : byteAt ([0x55, 0x00, n] ++ (mid ++ [x, y])) (n.toNat - 2) = x :=
    byteAt_received_sub (tail := [x, y]) hlen (by simp)
  have hy : byteAt ([0x55, 0x00, n] ++ (mid ++ [x, y])) (n.toNat - 1) = y :=
    byteAt_received_sub (tail := [x, y]) hlen (by simp)
  rw [exec_response_body hp hhead hn hbody (decide_eq_true hl.le), bodyOutcome, if_neg hl.not_lt, hx, hy, if_pos hbad]
  exact ⟨rfl, rfl⟩

/-- A complete response, from a read in progress (R105 to R110). -/
theorem exec_response_received {s : State} {n : Byte} {mid : List Byte} (hp : s.phase = .readHead)
    (h : s.receives n (mid ++ [0x00, 0xAA])) :
    exec .response s = .next ((s.afterResponse n).deliver (payloadOutcome s.form (mid.drop 2).dropLast)) := by
  rw [exec_response_busy (by simp [hp]), runSequencer_received hp h]

/-- Settles O32: a body of `n - 3` bytes without INS, ADR, CHK and tail has `n - 8`. -/
theorem payloadIsExtracted : Obligations.PayloadIsExtracted := by
  intro s n mid hp h
  refine ⟨exec_response_received hp h, rfl, ?_⟩
  obtain ⟨-, -, -, hl⟩ := h
  simp only [List.length_append, List.length_cons, List.length_nil] at hl
  simp only [List.length_dropLast, List.length_drop]
  omega

/-- Settles O33: the payload of O32, for any bytes in the places of INS, ADR and CHK. -/
theorem receivedInsAdrChkAreNotChecked : Obligations.ReceivedInsAdrChkAreNotChecked := by
  intro s n ins adr chk p hp hform h
  have hbody : ins :: adr :: p ++ [chk, 0x00, 0xAA] = (ins :: adr :: (p ++ [chk])) ++ [0x00, 0xAA] := by simp
  have hpayload : ((ins :: adr :: (p ++ [chk])).drop 2).dropLast = p := List.dropLast_concat
  rw [exec_response_received hp (hbody ▸ h), hform, hpayload]
  rfl

end Sys2Proof.Machine
end

section
/-! The session (O8, O9, O11; R100 to R102): the end of a host operation said once, then open, close and the gate. -/

namespace Sys2Proof.Machine

/-- Between operations a host operation that only delivers an outcome moves nothing else. -/
theorem hostOperation_of_deliver {body : State → Result State} {s : State} {o : OpOutcome} (hrest : s.atRest = true)
    (h : body s = .next (s.deliver o)) : hostOperation body s = .next { s with outcomes := s.outcomes ++ [o] } := by
  rw [hostOperation_idle (State.phase_of_atRest hrest), h, State.deliver_of_atRest hrest]

theorem exec_openSession_ok {s : State} (hp : s.phase = .idle) (ha : s.answerOpen = .ok ()) :
    exec .openSession s = .next ({ s.afterOpen with session := .opened }.deliver (.ok .unit)) := by
  simp only [exec, execOpenSession, hostOperation_idle hp, tOpen, ha, State.succeed_eq]

theorem exec_openSession_err {s : State} {e : TransportError} (hp : s.phase = .idle) (ha : s.answerOpen = .err e) :
    exec .openSession s = .next (s.afterOpen.deliver (.err .tOpen)) := by
  simp only [exec, execOpenSession, hostOperation_idle hp, tOpen, ha, State.raise_eq]

theorem exec_closeSession {s : State} (hp : s.phase = .idle) :
    exec .closeSession s = .next ({ s.afterClose with session := .closed }.deliver (.ok .unit)) := by
  simp only [exec, execCloseSession, hostOperation_idle hp, tClose, State.succeed_eq]

/-- Settles O8, by the transport's answer. -/
theorem openFollowsTheTransport : Obligations.OpenFollowsTheTransport := by
  refine ⟨fun s hrest ha => ?_, fun s e hrest ha => ?_, fun s => ⟨rfl, rfl⟩⟩
  · have hopened : { s.afterOpen with session := .opened }.atRest = true := hrest
    rw [exec_openSession_ok (State.phase_of_atRest hrest) ha, State.deliver_of_atRest hopened]
    rfl
  · have hafter : s.afterOpen.atRest = true := hrest
    rw [exec_openSession_err (State.phase_of_atRest hrest) ha, State.deliver_of_atRest hafter]
    rfl

/-- Settles O9: the answer inside T.close is seen by the diagnostic alone. -/
theorem closeAlwaysSucceeds : Obligations.CloseAlwaysSucceeds := by
  intro s hrest
  have hclosed : { s.afterClose with session := .closed }.atRest = true := hrest
  rw [exec_closeSession (State.phase_of_atRest hrest), State.deliver_of_atRest hclosed]
  rfl

/-! ## The gate (R100) -/

theorem writeCommand_closed {s : State} (address : Int) (data : List Int) (hs : s.session = .closed) :
    writeCommand address data s = .next (s.deliver (.err .notOpen)) := writeCommand_error (requestFrame_closed hs)

theorem readCommand_closed {s : State} (form : PayloadForm) (address : Int) (data : List Int) (hs : s.session = .closed) :
    readCommand form address data s = .next (s.deliver (.err .notOpen)) := readCommand_error (requestFrame_closed hs)

theorem exec_response_closed {s : State} (hp : s.phase = .idle) (hs : s.session = .closed) :
    exec .response s = .next (s.deliver (.err .notOpen)) := by
  simp only [exec, execResponse, hp, hs, State.raise_eq]

/-- Settles O11: each of these operations is a write, a read or RESPONSE, and the gate is the first check of all three. -/
theorem closedSessionGatesTransfers : Obligations.ClosedSessionGatesTransfers := by
  intro i s hi hrest hs
  have gatedWrite (address : Int) (data : List Int) :=
    hostOperation_of_deliver hrest (writeCommand_closed address data hs)
  have gatedRead (form : PayloadForm) (address : Int) (data : List Int) :=
    hostOperation_of_deliver hrest (readCommand_closed form address data hs)
  cases i with
  | write address data => exact gatedWrite address data
  | torqueOn => exact gatedWrite _ _
  | torqueOff => exact gatedWrite _ _
  | read address data => exact gatedRead .raw address data
  | readBatteryLevel => exact gatedRead _ _ _
  | readRawImuAngle => exact gatedRead _ _ _
  | readImuAngle => exact gatedRead _ _ _
  | getImuAngle => exact gatedRead _ _ _
  | getRawImuData => exact gatedRead _ _ _
  | response => rw [exec_response_closed (State.phase_of_atRest hrest) hs, State.deliver_of_atRest hrest]
  | _ => cases hi

end Sys2Proof.Machine
end

section
/-! The write-type operations (O14 to O19; R103, R112 to R120): one write said once for a state at rest, then each operation by the frame
that it sends. -/

namespace Sys2Proof.Machine

/-! ## One write -/

/-- A legal write in an open session, after the diagnostics `ds` of its clamps: one transaction, and the outcome of its answer. -/
theorem writeCommand_noting_of_encode {s : State} {address : Int} {data : List Int} {f : List Byte} (ds : List Diagnostic)
    (hrest : s.atRest = true) (ho : s.session = .opened) (he : encode (.write address data) = some f)
    (hc : writeContract f (s.answerWrite f) = true) :
    writeCommand address data (s.noting ds) = .next { s.afterWrite f with
      outcomes := s.outcomes ++ [writeOutcome f (s.answerWrite f)]
      diagnostics := s.diagnostics ++ ds } := by
  have hr : requestFrame Config.insWrite address data (s.noting ds) = .ok f := requestFrame_write_ok_iff.2 ⟨ho, he⟩
  have hwritten : ((s.noting ds).afterWrite f).atRest = true := hrest
  rw [writeCommand_ok hr hc, State.deliver_of_atRest hwritten]
  rfl

/-- The same for an operation that is its write and clamps nothing. -/
theorem exec_of_encode_write {i : Instr} {s : State} {address : Int} {data : List Int} {f : List Byte}
    (hexec : exec i s = hostOperation (writeCommand address data) s) (hrest : s.atRest = true) (ho : s.session = .opened)
    (he : encode (.write address data) = some f) (hc : writeContract f (s.answerWrite f) = true) :
    exec i s = .next { s.afterWrite f with outcomes := s.outcomes ++ [writeOutcome f (s.answerWrite f)] } := by
  have hwrite := writeCommand_noting_of_encode [] hrest ho he hc
  rw [State.noting_nil, List.append_nil] at hwrite
  rw [hexec, hostOperation_idle (State.phase_of_atRest hrest), hwrite]
  rfl

/-- The frame of a write of bytes (R51, R103). -/
theorem encode_write_ofByte (adr : Byte) {data : List Byte} (hl : data.length ≤ 247) :
    encode (.write (ofByte adr) (data.map ofByte)) = some (wireFrame 0x01 adr data) := by
  rw [encode_write (bytes_legal adr hl), toByte_ofByte, map_toByte_ofByte]

/-- Settles O14: bytes are legal operands, so the write sends their frame. -/
theorem writeSendsOneFrame : Obligations.WriteSendsOneFrame := by
  rintro s adr data hrest ho hl f rfl hc
  exact exec_of_encode_write rfl hrest ho (encode_write_ofByte adr hl) hc

/-- Settles O15, by the transport's answer to the one frame. -/
theorem transportAnswerDecidesTheWrite : Obligations.TransportAnswerDecidesTheWrite := by
  intro s hrest ho
  have hwrite := exec_of_encode_write (i := .write 0x10 []) (f := [0x55, 0x00, 0x08, 0x01, 0x10, 0xE6, 0x00, 0xAA]) rfl hrest ho
    (by decide)
  refine ⟨fun e ha => ?_, fun k hk ha => ?_, fun ha => ?_⟩
  · rw [hwrite (by rw [ha]; rfl), ha]
    rfl
  · rw [hwrite (by rw [ha]; exact decide_eq_true hk.le), ha]
    simp [writeOutcome, hk]
  · rw [hwrite (by rw [ha]; rfl), ha]
    rfl

/-! ## Illegal operands (R120, R154) -/

/-- A write or a read whose checks fail ends in their error. -/
theorem exec_of_requestFrame_error {i : Instr} {s : State} {address : Int} {data : List Int} {c : Cause}
    (hi : i = .write address data ∨ i = .read address data) (hrest : s.atRest = true)
    (h : ∀ ins : Int, 0 ≤ ins ∧ ins ≤ 255 → requestFrame ins address data s = .error c) :
    exec i s = .next { s with outcomes := s.outcomes ++ [.err c] } := by
  rcases hi with rfl | rfl
  · exact hostOperation_of_deliver hrest (writeCommand_error (h _ (by decide)))
  · exact hostOperation_of_deliver hrest (readCommand_error (h _ (by decide)))

/-- With legal elements the builder's checks are left (R81). -/
theorem requestFrame_legal_data {s : State} {ins address : Int} {data : List Int} (ho : s.session = .opened)
    (hi : 0 ≤ ins ∧ ins ≤ 255) (hdata : ∀ v ∈ data, 0 ≤ v ∧ v ≤ 255) :
    requestFrame ins address data s =
      if ¬(0 ≤ address ∧ address ≤ 255) then .error .adrRange
      else if 250 < data.length then .error .dataLong
      else if 247 < data.length then .error .lenOverflow
      else .ok (frameBytes (BitVec.ofNat 8 (data.length + 8)) (toByte ins) (toByte address) (data.map toByte)) := by
  rw [requestFrame_opened ho, if_pos ((validateData_iff data).2 hdata), buildFrame_eq, if_neg (not_not.2 hi), List.length_map]

/-- Settles O16, check by check. -/
theorem illegalOperandsSendNothing : Obligations.IllegalOperandsSendNothing := by
  intro s address data i hi hrest ho
  refine ⟨fun ⟨v, hv, hbad⟩ => exec_of_requestFrame_error hi hrest fun ins _ => ?_,
    fun hdata hadr => exec_of_requestFrame_error hi hrest fun ins hins => ?_,
    fun hdata h0 h1 hlong => exec_of_requestFrame_error hi hrest fun ins hins => ?_,
    fun hdata h0 h1 hlo hhi => exec_of_requestFrame_error hi hrest fun ins hins => ?_⟩
  · have hillegal : ¬ validateData data = true := fun hall => by
      have := (validateData_iff data).1 hall v hv
      omega
    rw [requestFrame_opened ho, if_neg hillegal]
  · rw [requestFrame_legal_data ho hins hdata, if_pos (by omega)]
  · rw [requestFrame_legal_data ho hins hdata, if_neg (by omega), if_pos hlong]
  · rw [requestFrame_legal_data ho hins hdata, if_neg (by omega), if_neg (by omega), if_pos (by omega)]

/-! ## The torque operations (R112, R113) -/

/-- Settles O17: both are gated writes, and the frames that the rules print are their encodings. -/
theorem torqueOperationsSendTheirFrames : Obligations.TorqueOperationsSendTheirFrames := by
  intro s i f hif hrest
  simp only [List.mem_cons, Prod.mk.injEq, List.not_mem_nil, or_false] at hif
  refine ⟨rfl, rfl, ?_⟩
  rcases hif with ⟨rfl, rfl⟩ | ⟨rfl, rfl⟩
  · exact ⟨closedSessionGatesTransfers .torqueOn s rfl hrest,
      fun ho hc => exec_of_encode_write rfl hrest ho (by decide) hc⟩
  · exact ⟨closedSessionGatesTransfers .torqueOff s rfl hrest,
      fun ho hc => exec_of_encode_write rfl hrest ho (by decide) hc⟩

/-! ## The servo operations (R114, R116, R118) -/

theorem byteSum_cons (b : Byte) (bs : List Byte) : byteSum (b :: bs) = b.toNat + byteSum bs := by simp [byteSum]

/-- CHK as an integer expression over the sum. -/
theorem checksumByte_eq_ofInt {p : List Byte} {n : Int} (hn : (byteSum p : Int) = n) :
    checksumByte p = BitVec.ofInt 8 (255 - n % 256) := by
  have hsub : (255 - n % 256 : Int) = ((255 - byteSum p % 256 : Nat) : Int) := by omega
  rw [checksumByte_eq_ofNat, hsub, BitVec.ofInt_natCast]

/-- The two bytes of a 16-bit operand, high byte first, as integer quotient and value (R61). -/
theorem wordField_eq_ofInt {v : Int} (h : 0 ≤ v) : wordField v = [BitVec.ofInt 8 (v / 256), BitVec.ofInt 8 v] := by
  have hhi : toByte (v / 256) = BitVec.ofNat 8 (v.toNat / 256) := by
    rw [toByte, show (v / 256).toNat = v.toNat / 256 by omega]
  rw [← toByte_eq_ofInt h, ← toByte_eq_ofInt (Int.ediv_nonneg h (by decide)), hhi]
  rfl

theorem byteSum_wordField {v : Int} (h0 : 0 ≤ v) (h1 : v ≤ 65535) : (byteSum (wordField v) : Int) = v / 256 + v % 256 := by
  simp only [wordField, byteSum_cons, BitVec.toNat_ofNat, show byteSum [] = 0 from rfl]
  omega

theorem exec_servoMove {s : State} {id : Int} (angle speed : Int) (hp : s.phase = .idle) (hid : servoIdLegal id = true) :
    exec (.servoMove id angle speed) s =
      writeCommand Config.adrServoMove (id :: clampAngle angle :: (wordField (clampSpeed speed)).map ofByte)
        (s.noting ((if angle = clampAngle angle then [] else [.clamped .angle angle (clampAngle angle)]) ++
          if speed = clampSpeed speed then [] else [.clamped .speed speed (clampSpeed speed)])) := by
  obtain ⟨h0, h1⟩ := clampSpeed_mem speed
  simp only [exec, execServoMove, hostOperation_idle hp, hid, packUint16BE_wordField h0 h1, State.noteClamp_eq,
    State.noting_noting]
  rfl

theorem exec_calibrateServo {s : State} {id : Int} (deviation : Int) (hp : s.phase = .idle) (hid : servoIdLegal id = true) :
    exec (.calibrateServo id deviation) s =
      writeCommand Config.adrCalibrate (id :: (wordField (clampDeviation deviation)).map ofByte)
        (s.noting (if deviation = clampDeviation deviation then []
          else [.clamped .deviation deviation (clampDeviation deviation)])) := by
  obtain ⟨h0, h1⟩ := clampDeviation_mem deviation
  simp only [exec, execCalibrateServo, hostOperation_idle hp, hid, packUint16BE_wordField h0 h1, State.noteClamp_eq]
  rfl

/-- The frame of servoMove in plain numbers (R62). -/
theorem wireFrame_servoMove {id a v : Int} (hid : 1 ≤ id ∧ id ≤ 18) (ha : 0 ≤ a ∧ a ≤ 180) (hv : 0 ≤ v ∧ v ≤ 65535) :
    wireFrame 0x01 0x40 (toByte id :: toByte a :: wordField v) =
      [0x55, 0x00, 0x0C, 0x01, 0x40, BitVec.ofInt 8 id, BitVec.ofInt 8 a, BitVec.ofInt 8 (v / 256), BitVec.ofInt 8 v,
        BitVec.ofInt 8 (255 - (0x4D + id + a + v / 256 + v % 256) % 256), 0x00, 0xAA] := by
  have hsum : (byteSum (0x0C :: 0x01 :: 0x40 :: toByte id :: toByte a :: wordField v) : Int) =
      0x4D + id + a + v / 256 + v % 256 := by
    have hword := byteSum_wordField hv.1 hv.2
    simp only [byteSum_cons, toNat_toByte (show id ≤ 255 by omega), toNat_toByte (show a ≤ 255 by omega), BitVec.reduceToNat]
    omega
  have hchk := checksumByte_eq_ofInt hsum
  rw [wordField_eq_ofInt hv.1, toByte_eq_ofInt (by omega : 0 ≤ id), toByte_eq_ofInt ha.1] at hchk ⊢
  rw [← hchk]
  rfl

/-- The frame of calibrateServo in plain numbers (R62). -/
theorem wireFrame_calibrateServo {id d : Int} (hid : 1 ≤ id ∧ id ≤ 18) (hd : 0 ≤ d ∧ d ≤ 65535) :
    wireFrame 0x01 0x28 (toByte id :: wordField d) =
      [0x55, 0x00, 0x0B, 0x01, 0x28, BitVec.ofInt 8 id, BitVec.ofInt 8 (d / 256), BitVec.ofInt 8 d,
        BitVec.ofInt 8 (255 - (0x34 + id + d / 256 + d % 256) % 256), 0x00, 0xAA] := by
  have hsum : (byteSum (0x0B :: 0x01 :: 0x28 :: toByte id :: wordField d) : Int) = 0x34 + id + d / 256 + d % 256 := by
    have hword := byteSum_wordField hd.1 hd.2
    simp only [byteSum_cons, toNat_toByte (show id ≤ 255 by omega), BitVec.reduceToNat]
    omega
  have hchk := checksumByte_eq_ofInt hsum
  rw [wordField_eq_ofInt hd.1, toByte_eq_ofInt (by omega : 0 ≤ id)] at hchk ⊢
  rw [← hchk]
  rfl

theorem encode_servoMove_eq {id : Int} (angle speed : Int) (hid : servoIdLegal id = true) :
    encode (.servoMove id angle speed) =
      some (wireFrame 0x01 0x40 (toByte id :: toByte (clampAngle angle) :: wordField (clampSpeed speed))) := by
  have hw : (Instr.servoMove id angle speed).wellFormed = true := hid
  simp only [encode, hw]
  rfl

theorem encode_calibrateServo_eq {id : Int} (deviation : Int) (hid : servoIdLegal id = true) :
    encode (.calibrateServo id deviation) =
      some (wireFrame 0x01 0x28 (toByte id :: wordField (clampDeviation deviation))) := by
  have hw : (Instr.calibrateServo id deviation).wellFormed = true := hid
  simp only [encode, hw]
  rfl

/-- Settles O18: the clamped operands are the write's data, and the diagnostics come before it. -/
theorem servoMoveSendsClampedOperands : Obligations.ServoMoveSendsClampedOperands := by
  rintro s id angle speed a v f hrest ho h1 h18 ha hv rfl hc
  obtain rfl : a = clampAngle angle := ha
  obtain rfl : v = clampSpeed speed := hv
  have hid := (servoIdLegal_iff id).2 ⟨h1, h18⟩
  have hframe := wireFrame_servoMove ⟨h1, h18⟩ (clampAngle_mem angle) (clampSpeed_mem speed)
  have he := (encode_servoMove angle speed hid).symm.trans (encode_servoMove_eq angle speed hid)
  rw [hframe] at he
  rw [exec_servoMove angle speed (State.phase_of_atRest hrest) hid, writeCommand_noting_of_encode _ hrest ho he hc,
    ← List.append_assoc]

/-- Settles O19, as O18. -/
theorem calibrateSendsClampedDeviation : Obligations.CalibrateSendsClampedDeviation := by
  rintro s id deviation d f hrest ho h1 h18 hd rfl hc
  obtain rfl : d = clampDeviation deviation := hd
  have hid := (servoIdLegal_iff id).2 ⟨h1, h18⟩
  have hframe := wireFrame_calibrateServo ⟨h1, h18⟩ (clampDeviation_mem deviation)
  have he := (encode_calibrateServo deviation hid).symm.trans (encode_calibrateServo_eq deviation hid)
  rw [hframe] at he
  rw [exec_calibrateServo deviation (State.phase_of_atRest hrest) hid, writeCommand_noting_of_encode _ hrest ho he hc]

end Sys2Proof.Machine
end

section
/-! The read-type operations (O21 to O23; R104, R115, R117, R130 to R132): each is its request and then RESPONSE from ReadHead, so what
RESPONSE does with an answer is what the read does with it. -/

namespace Sys2Proof.Machine

/-! ## The request, then the protocol -/

/-- A read in progress ends within the transitions that its phase leaves; one more changes nothing (R16). -/
theorem advances_succ_eq {k : Nat} {s : State} (hp : s.phase ≠ .idle) (hk : 7 ≤ s.phase.position + k) :
    advances (k + 1) s = advances k s := by
  induction k generalizing s with
  | zero =>
    have : s.phase.position ≤ 6 := by cases s.phase <;> decide
    omega
  | succ k ih =>
    rw [advances_succ (k + 1), advances_succ k]
    cases h : advance s with
    | fault x => rfl
    | refused x => rfl
    | next t =>
      obtain ⟨u, -, -, -, -, ⟨o, rfl⟩ | ⟨-, hpos⟩⟩ := advance_cases h hp
      · simp only [andThen_next, advances_deliver]
      · have hbusy : t.phase ≠ .idle := fun hidle => by simp [hidle, Phase.position] at hpos
        exact ih hbusy (by omega)

/-- A read-type operation with a frame is one read (R104, R115, R117, R131 to R135). -/
theorem isRead_of_readForm {i : Instr} {form : PayloadForm} {f : List Byte} (hi : readForm i = some form)
    (he : encode i = some f) : ∃ address data, IsRead i form address data := by
  cases i with
  | read address data => cases hi; exact ⟨_, _, isRead_of_exec rfl rfl fun _ => rfl⟩
  | readServoAngle servoId => cases hi; exact ⟨_, _, isRead_readServoAngle (Laws.wellFormed_of_encode he)⟩
  | readBatteryLevel => cases hi; exact ⟨_, _, isRead_of_exec rfl rfl fun _ => rfl⟩
  | readRawImuAngle => cases hi; exact ⟨_, _, isRead_of_exec rfl rfl fun _ => rfl⟩
  | readImuAngle => cases hi; exact ⟨_, _, isRead_of_exec rfl rfl fun _ => rfl⟩
  | getImuAngle => cases hi; exact ⟨_, _, isRead_of_exec rfl rfl fun _ => rfl⟩
  | getRawImuData => cases hi; exact ⟨_, _, isRead_of_exec rfl rfl fun _ => rfl⟩
  | _ => cases hi

section
variable {s : State} {i : Instr} {form : PayloadForm} {f : List Byte}

/-- The state in which the response protocol starts, once the request `f` is written (R104). -/
def State.requested (form : PayloadForm) (f : List Byte) (s : State) : State :=
  { s.afterWrite f with phase := .readHead, form := form }

/-- Everything a read-type operation does with the answer to its request (R104, R119). -/
theorem exec_read_of_encode (hi : readForm i = some form) (he : encode i = some f) (hrest : s.atRest = true)
    (ho : s.session = .opened) (hc : writeContract f (s.answerWrite f) = true) :
    exec i s =
      match sendCause f.length (s.answerWrite f) with
      | some c => .next { s.afterWrite f with outcomes := s.outcomes ++ [.err c] }
      | none => exec .response (s.requested form f) := by
  obtain ⟨address, data, hread⟩ := isRead_of_readForm hi he
  have hr := requestFrame_read_ok_iff.2 ⟨ho, hread.encode_eq ▸ he⟩
  have hwritten : (s.afterWrite f).atRest = true := hrest
  rw [hread.exec_eq s (State.phase_of_atRest hrest), readCommand_ok hr hc, State.discard_of_atRest hrest]
  cases sendCause f.length (s.answerWrite f) with
  | some c => exact congrArg _ (State.deliver_of_atRest hwritten _)
  | none =>
    have hbusy : (s.requested form f).phase ≠ .idle := by simp [State.requested]
    exact ((exec_response_busy hbusy).trans (advances_succ_eq hbusy (le_refl 7))).symm

/-- With the whole request taken, the read is RESPONSE from there. -/
theorem exec_read_of_full_write (hi : readForm i = some form) (he : encode i = some f) (hrest : s.atRest = true)
    (ho : s.session = .opened) (ha : s.answerWrite f = .ok f.length) : exec i s = exec .response (s.requested form f) := by
  rw [exec_read_of_encode hi he hrest ho (by rw [ha]; exact decide_eq_true le_rfl), ha]
  simp [sendCause]

/-- With a complete response after it, the read makes the outcome of its payload and leaves nothing else (R104 to R110). -/
theorem exec_read_of_receives {n : Byte} {mid : List Byte} (hi : readForm i = some form) (he : encode i = some f)
    (hrest : s.atRest = true) (ho : s.session = .opened) (ha : s.answerWrite f = .ok f.length)
    (h : (s.afterWrite f).receives n (mid ++ [0x00, 0xAA])) :
    exec i s = .next { (s.afterWrite f).afterResponse n with
      outcomes := s.outcomes ++ [payloadOutcome form (mid.drop 2).dropLast] } := by
  have hdone : ((s.afterWrite f).afterResponse n).atRest = true := hrest
  have hreceives : (s.requested form f).receives n (mid ++ [0x00, 0xAA]) := h
  rw [exec_read_of_full_write hi he hrest ho ha, exec_response_received rfl hreceives]
  exact congrArg _ (State.deliver_of_atRest hdone _)

end

/-- Settles O21, by the transport's answer to the request. -/
theorem readIsRequestThenResponse : Obligations.ReadIsRequestThenResponse := by
  intro s i form f hi he hrest ho
  have hread := exec_read_of_encode hi he hrest ho
  refine ⟨exec_read_of_full_write hi he hrest ho, fun k hk ha => ?_, fun e ha => ?_⟩
  · rw [hread (by rw [ha]; exact decide_eq_true hk.le), ha]
    cases hshort : Config.shortWriteIsError with
    | true => simp [sendCause, hk, hshort]
    | false => simp [sendCause, hshort, State.requested]
  · rw [hread (by rw [ha]; rfl), ha]
    rfl

/-! ## On a complete response -/

/-- The frame of a read of bytes (R51, R104). -/
theorem encode_read_ofByte (adr : Byte) {data : List Byte} (hl : data.length ≤ 247) :
    encode (.read (ofByte adr) (data.map ofByte)) = some (wireFrame 0x02 adr data) := by
  rw [encode_read (bytes_legal adr hl), toByte_ofByte, map_toByte_ofByte]

/-- Settles O22: bytes are legal operands, and a raw read returns its payload. -/
theorem readReturnsThePayload : Obligations.ReadReturnsThePayload := by
  rintro s adr n data mid f hrest ho hl rfl ha h
  exact exec_read_of_receives (i := .read (ofByte adr) (data.map ofByte)) rfl (encode_read_ofByte adr hl) hrest ho ha h

theorem exec_readServoAngle_legal {id : Int} (s : State) (hid : servoIdLegal id = true) :
    exec (.readServoAngle id) s = exec (.read Config.adrServoAngle [id]) s := by
  simp only [exec, execReadServoAngle, execRead, hid]
  rfl

theorem exec_readServoAngle_illegal {id : Int} {s : State} (hid : servoIdLegal id = false) (hrest : s.atRest = true) :
    exec (.readServoAngle id) s = .next { s with outcomes := s.outcomes ++ [.err .servoId] } := by
  simp only [exec, execReadServoAngle, hid]
  exact hostOperation_of_deliver hrest rfl

/-- The request of readServoAngle in plain numbers (R115). -/
theorem encode_readServoAngle_eq {id : Nat} (h1 : 1 ≤ id) (h18 : id ≤ 18) :
    encode (.readServoAngle id) =
      some [0x55, 0x00, 0x09, 0x02, 0x50, BitVec.ofNat 8 id, BitVec.ofNat 8 (0xA4 - id), 0x00, 0xAA] := by
  have hw : (Instr.readServoAngle id).wellFormed = true := (servoIdLegal_iff id).2 (by omega)
  have hchk : checksumByte [0x09, 0x02, 0x50, toByte id] = BitVec.ofNat 8 (0xA4 - id) := by
    rw [checksumByte_eq_ofNat]
    congr 1
    simp only [byteSum_cons, toNat_toByte (show (id : Int) ≤ 255 by omega), BitVec.reduceToNat, show byteSum [] = 0 from rfl]
    omega
  simp only [encode, hw]
  rw [← hchk]
  rfl

/-- Settles O23: each operation has the frame that its rule prints and returns the raw payload, as every read with form `raw`. -/
theorem namedReadsReturnRawPayload : Obligations.NamedReadsReturnRawPayload := by
  refine ⟨fun s => ⟨rfl, rfl, rfl⟩, fun s id h1 h18 => exec_readServoAngle_legal s ((servoIdLegal_iff id).2 ⟨h1, h18⟩),
    fun s id hid hrest => exec_readServoAngle_illegal ?_ hrest, rfl, fun s i f mid n hif hrest ho ha h => ?_⟩
  · rw [← Bool.not_eq_true, servoIdLegal_iff]
    omega
  · have hraw : readForm i = some .raw ∧ encode i = some f ∧ f.length = 9 := by
      simp only [List.mem_cons, Prod.mk.injEq, List.not_mem_nil, or_false] at hif
      rcases hif with (⟨rfl, rfl⟩ | ⟨rfl, rfl⟩ | ⟨rfl, rfl⟩) | ⟨id, h1, h18, rfl, rfl⟩
      · decide
      · decide
      · decide
      · exact ⟨rfl, encode_readServoAngle_eq h1 h18, rfl⟩
    obtain ⟨hi, he, hl⟩ := hraw
    exact exec_read_of_receives hi he hrest ho (by rw [ha, hl]) h

end Sys2Proof.Machine
end

section
/-! The typed reads (O7, O24 to O26; R134 to R136): what the field decoder keeps of a payload, and a typed read as its raw read
followed by the length check and the decode. -/

namespace Sys2Proof.Machine

/-! ## The field decoder -/

theorem u16BE_inj {a b c d : Byte} : u16BE a b = u16BE c d ↔ a = c ∧ b = d := by
  refine ⟨fun h => ?_, fun ⟨ha, hb⟩ => by rw [ha, hb]⟩
  have hbytes : [a, b] = [c, d] := by rw [← wordField_u16BE a b, h, wordField_u16BE]
  simpa using hbytes

theorem fieldAt_eq_iff {p q : List Byte} {k : Nat} :
    fieldAt p k = fieldAt q k ↔ byteAt p k = byteAt q k ∧ byteAt p (k + 1) = byteAt q (k + 1) := u16BE_inj

theorem eq_of_byteAt_eq {p q : List Byte} {n : Nat} (hp : p.length = n) (hq : q.length = n)
    (h : ∀ k < n, byteAt p k = byteAt q k) : p = q := by
  refine List.ext_getElem (hp.trans hq.symm) fun k hkp hkq => ?_
  simpa only [byteAt, List.getD_eq_getElem _ _ hkp, List.getD_eq_getElem _ _ hkq] using h k (hp ▸ hkp)

/-- Settles O7: the fields determine the byte at every index of a payload of the exact length. -/
theorem fieldDecoderIsInjective : Obligations.FieldDecoderIsInjective := by
  constructor
  · intro p q hp hq h
    simp only [decodeImuAngle, IMUAngleData.mk.injEq, fieldAt_eq_iff] at h
    refine eq_of_byteAt_eq hp hq fun k hk => ?_
    interval_cases k <;> simp only [h]
  · intro p q hp hq h
    simp only [decodeRawImu, RawIMUData.mk.injEq, fieldAt_eq_iff] at h
    refine eq_of_byteAt_eq hp hq fun k hk => ?_
    interval_cases k <;> simp only [h]

/-! ## On a complete response -/

theorem payloadOutcome_imuAngle (p : List Byte) :
    payloadOutcome .imuAngle p = if p.length = 7 then .ok (.imuAngle (decodeImuAngle p)) else .err .payloadLen := by
  simp [payloadOutcome, Config.imuAngleLen]

theorem payloadOutcome_rawImu (p : List Byte) :
    payloadOutcome .rawImu p = if p.length = 18 then .ok (.rawImu (decodeRawImu p)) else .err .payloadLen := by
  simp [payloadOutcome, Config.imuRawLen]

/-- A complete response has a payload of `k` bytes only with the LEN byte `k + 8` (R110; the payload of LEN 5, 6, 7 is empty). -/
theorem payload_length_ne_of_receives {s : State} {n : Byte} {mid : List Byte} {k : Nat}
    (h : s.receives n (mid ++ [0x00, 0xAA])) (hk : 0 < k) (hn : n ≠ BitVec.ofNat 8 (k + 8)) :
    (mid.drop 2).dropLast.length ≠ k := by
  obtain ⟨-, -, -, hl⟩ := h
  intro hlen
  refine hn (BitVec.eq_of_toNat_eq ?_)
  have hlt := n.isLt
  simp only [List.length_append, List.length_cons, List.length_nil] at hl
  simp only [List.length_dropLast, List.length_drop] at hlen
  rw [BitVec.toNat_ofNat]
  omega

/-- Settles O24: the outcome of the payload, whose length the LEN byte tells. -/
theorem getImuAngleDecodesSevenBytes : Obligations.GetImuAngleDecodesSevenBytes := by
  rintro s f rfl hrest ho ha
  refine ⟨fun ins adr chk p0 p1 p2 p3 p4 p5 p6 h => ?_, fun n mid hn h => ?_⟩
  · rw [exec_read_of_receives (mid := [ins, adr, p0, p1, p2, p3, p4, p5, p6, chk]) rfl (by decide) hrest ho ha h]
    simp only [← u16BE_eq_append]
    rfl
  · have hlen := payload_length_ne_of_receives (k := 7) h (by decide) hn
    rw [exec_read_of_receives rfl (by decide) hrest ho ha h, payloadOutcome_imuAngle, if_neg hlen]

/-- Settles O25: as O24, with 18 payload bytes. -/
theorem getRawImuDataDecodesEighteenBytes : Obligations.GetRawImuDataDecodesEighteenBytes := by
  rintro s f rfl hrest ho ha
  refine ⟨fun ins adr chk a0 a1 a2 a3 a4 a5 g0 g1 g2 g3 g4 g5 m0 m1 m2 m3 m4 m5 h => ?_, fun n mid hn h => ?_⟩
  · rw [exec_read_of_receives (mid := [ins, adr, a0, a1, a2, a3, a4, a5, g0, g1, g2, g3, g4, g5, m0, m1, m2, m3, m4, m5, chk])
      rfl (by decide) hrest ho ha h]
    simp only [← u16BE_eq_append]
    rfl
  · have hlen := payload_length_ne_of_receives (k := 18) h (by decide) hn
    rw [exec_read_of_receives rfl (by decide) hrest ho ha h, payloadOutcome_rawImu, if_neg hlen]

/-! ## A typed read over its raw read

The runs of one read in the three forms make the same transactions and the same checks; only the outcome of the payload tells them
apart. -/

/-- A raw read's outcome with its payload used as `form` says; an error stays as it is (R134, R135). -/
def decoded (form : PayloadForm) : OpOutcome → OpOutcome
  | .ok (.bytes p) => payloadOutcome form p
  | o => o

/-- In every form the outcome is the raw form's, decoded. -/
def OutcomeDecodes (out : PayloadForm → OpOutcome) : Prop := ∀ form, out form = decoded form (out .raw)

namespace OutcomeDecodes

theorem err (c : Cause) : OutcomeDecodes fun _ => .err c := fun _ => rfl

theorem payload (p : List Byte) : OutcomeDecodes fun form => payloadOutcome form p := fun _ => rfl

/-- A check that comes out the same in every form. -/
theorem ite {p : PayloadForm → Prop} {_ : DecidablePred p} {out out' : PayloadForm → OpOutcome} (hp : ∀ form, p form ↔ p .raw)
    (h : OutcomeDecodes out) (h' : OutcomeDecodes out') : OutcomeDecodes fun form => if p form then out form else out' form := by
  intro form
  beta_reduce
  by_cases hraw : p .raw
  · rw [if_pos hraw, if_pos ((hp form).2 hraw), h form]
  · rw [if_neg hraw, if_neg (mt (hp form).1 hraw), h' form]

end OutcomeDecodes

/-- Where the raw run of `r` delivers an outcome, the run in every form delivers that outcome decoded, from the same state. -/
def DecodesRaw (r : PayloadForm → Result State) : Prop :=
  ∀ t, r .raw = .next t → ∃ (u : State) (o : OpOutcome), t = u.deliver o ∧ ∀ form, r form = .next (u.deliver (decoded form o))

namespace DecodesRaw

theorem deliver (u : State) {out : PayloadForm → OpOutcome} (h : OutcomeDecodes out) :
    DecodesRaw fun form => .next (u.deliver (out form)) :=
  fun _ ht => ⟨u, out .raw, (Host.Outcome.next.inj ht).symm, fun form => by rw [← h form]⟩

/-- A check that does not look at the form. -/
theorem ite {p : Prop} {_ : Decidable p} {r r' : PayloadForm → Result State} (hr : DecodesRaw r) (hr' : DecodesRaw r') :
    DecodesRaw fun form => if p then r form else r' form := by
  by_cases h : p
  · simpa only [if_pos h] using hr
  · simpa only [if_neg h] using hr'

end DecodesRaw

theorem State.answerRead_setForm (n k : Nat) (form : PayloadForm) (s : State) :
    { s with form := form }.answerRead n k = s.answerRead n k := rfl

theorem State.rxLen_setForm (form : PayloadForm) (s : State) : { s with form := form }.rxLen = s.rxLen := rfl

/-- From the second read on (R108 to R110). -/
theorem decodesRaw_readBody {s : State} (hp : s.phase = .readBody) (k : Nat) :
    DecodesRaw fun form => advances (k + 3) { s with form := form } := by
  by_cases hc : readContract (s.rxLen - 3) (s.answerRead (s.rxLen - 3) 1) = true
  · rw [funext fun form => advances_readBody (s := { s with form := form }) hp k hc]
    refine DecodesRaw.deliver (s.afterRead (s.rxLen - 3) 1) ?_
    simp only [State.rxLen_setForm, State.answerRead_setForm]
    cases s.answerRead (s.rxLen - 3) 1 with
    | err e => exact .err .tRead
    | ok b => exact .ite (fun _ => Iff.rfl) (.err .bodyShort) (.ite (fun _ => Iff.rfl) (.err .tailBad) (.payload _))
  · exact fun t ht => absurd (advances_readBody_next (s := { s with form := .raw }) hp k ht) hc

/-- The whole response protocol (R105 to R110). -/
theorem decodesRaw_readHead {s : State} (hp : s.phase = .readHead) (k : Nat) :
    DecodesRaw fun form => advances (k + 5) { s with form := form } := by
  by_cases hc : readContract 3 (s.answerRead 3 1) = true
  · rw [funext fun form => advances_readHead (s := { s with form := form }) hp k hc]
    simp only [State.answerRead_setForm]
    have herr (c : Cause) := DecodesRaw.deliver (s.afterRead 3 1) (.err c)
    cases s.answerRead 3 1 with
    | err e => exact herr .tRead
    | ok hd =>
      have hbody := decodesRaw_readBody (s := { s.afterRead 3 1 with rxHead := hd, phase := .readBody }) rfl k
      exact .ite (herr .hdrShort) (.ite (herr .hdrBad) (.ite (herr .lenBad) hbody))
  · exact fun t ht => absurd (advances_readHead_next (s := { s with form := .raw }) hp k ht) hc

/-- The one read of R104, its checks and its request before the protocol. -/
theorem decodesRaw_readCommand (address : Int) (data : List Int) (s : State) :
    DecodesRaw fun form => readCommand form address data s := by
  intro t ht
  rcases readCommand_next ht with ⟨c, hr, rfl⟩ | ⟨f, hr, hc, -⟩
  · exact ⟨s, .err c, rfl, fun _ => readCommand_error hr⟩
  · have hread := funext fun form => readCommand_ok (form := form) hr hc
    suffices DecodesRaw fun form => readCommand form address data s from this t ht
    rw [hread]
    cases sendCause f.length (s.answerWrite f) with
    | some c => exact .deliver _ (.err c)
    | none => exact decodesRaw_readHead (s := { s.discard.afterWrite f with phase := .readHead }) rfl 0

/-- Two operations that make the same read, one of them raw: the other decodes the raw one's outcome and does nothing else. -/
theorem exec_eq_decoded_of_raw {i j : Instr} {form : PayloadForm} {address : Int} {data : List Int} {s t : State} {o : OpOutcome}
    (hi : IsRead i .raw address data) (hj : IsRead j form address data) (hp : s.phase = .idle)
    (hout : t.outcomes = s.outcomes ++ [o]) (h : exec i s = .next t) :
    exec j s = .next { t with outcomes := s.outcomes ++ [decoded form o] } := by
  rw [hi.exec_eq s hp] at h
  obtain ⟨u, o', rfl, hforms⟩ := decodesRaw_readCommand address data s t h
  obtain ⟨hprev, ho⟩ := List.append_inj' hout rfl
  cases ho
  rw [hj.exec_eq s hp, ← hprev]
  exact hforms form

/-- Settles O26: both operations of a pair make the same read, and the form of the typed one is the length check and the decode. -/
theorem typedReadsDecodeTheRawReads : Obligations.TypedReadsDecodeTheRawReads := by
  refine ⟨fun s t o hrest hout => ⟨fun h => ?_, fun h => ?_⟩, rfl, fun _ _ _ _ _ _ _ => ?_,
    fun _ _ _ _ _ _ _ _ _ _ _ _ _ _ _ _ _ _ => ?_⟩
  · have hraw : IsRead .readImuAngle .raw Config.adrImuAngle [0x07] := isRead_of_exec rfl rfl fun _ => rfl
    have htyped : IsRead .getImuAngle .imuAngle Config.adrImuAngle [0x07] := isRead_of_exec rfl rfl fun _ => rfl
    rw [exec_eq_decoded_of_raw hraw htyped (State.phase_of_atRest hrest) hout h]
    simp only [decoded, payloadOutcome_imuAngle] <;> rfl
  · have hraw : IsRead .readRawImuAngle .raw Config.adrImuRaw [0x12] := isRead_of_exec rfl rfl fun _ => rfl
    have htyped : IsRead .getRawImuData .rawImu Config.adrImuRaw [0x12] := isRead_of_exec rfl rfl fun _ => rfl
    rw [exec_eq_decoded_of_raw hraw htyped (State.phase_of_atRest hrest) hout h]
    simp only [decoded, payloadOutcome_rawImu] <;> rfl
  · exact ⟨toNat_u16BE _ _, toNat_u16BE _ _, toNat_u16BE _ _, rfl⟩
  · exact ⟨toNat_u16BE _ _, toNat_u16BE _ _, toNat_u16BE _ _, toNat_u16BE _ _, toNat_u16BE _ _, toNat_u16BE _ _,
      toNat_u16BE _ _, toNat_u16BE _ _, toNat_u16BE _ _⟩

end Sys2Proof.Machine
end

section
/-! The errors (O12, O37, O45; R150 to R157): the cause table read from the kind to its causes, the servo id check before the gate, and
what an operation that ends in an error has left. -/

namespace Sys2Proof.Machine

/-! ## The cause table (R151) -/

/-- The causes of a kind: the table of R151 read from its kind column. -/
def ErrorKind.causes : ErrorKind → List Cause
  | .rangeError => [.emptyPayload, .insRange, .adrRange, .dataLong, .u16Range, .u16Len, .dataByte, .servoId]
  | .notOpenError => [.notOpen]
  | .communicationError => [.tOpen, .tWrite, .shortWrite, .tRead, .hdrShort, .bodyShort]
  | .protocolError => [.hdrBad, .lenBad, .tailBad, .payloadLen]
  | .encodingError => [.lenOverflow]

theorem Cause.kind_eq_iff_mem_causes (k : ErrorKind) (c : Cause) : c.kind = k ↔ c ∈ k.causes := by
  have hrow : c ∈ c.kind.causes := by cases c <;> decide
  have hlisted : ∀ d ∈ k.causes, d.kind = k := by cases k <;> decide
  exact ⟨fun h => h ▸ hrow, hlisted c⟩

/-- Settles O45: each kind has the causes of its rows in the table. -/
theorem causesHaveTheirKindAndMessage : Obligations.CausesHaveTheirKindAndMessage :=
  ⟨Cause.kind_eq_iff_mem_causes .rangeError,
    fun c => (c.kind_eq_iff_mem_causes .notOpenError).trans List.mem_singleton,
    fun c => (c.kind_eq_iff_mem_causes .encodingError).trans List.mem_singleton,
    Cause.kind_eq_iff_mem_causes .communicationError, Cause.kind_eq_iff_mem_causes .protocolError, rfl⟩

/-! ## The servo id check (R154 items 1 and 2) -/

theorem exec_servoMove_illegal {id : Int} {s : State} (angle speed : Int) (hid : servoIdLegal id = false)
    (hrest : s.atRest = true) :
    exec (.servoMove id angle speed) s = .next { s with outcomes := s.outcomes ++ [.err .servoId] } := by
  simp only [exec, execServoMove, hid]
  exact hostOperation_of_deliver hrest rfl

theorem exec_calibrateServo_illegal {id : Int} {s : State} (deviation : Int) (hid : servoIdLegal id = false)
    (hrest : s.atRest = true) :
    exec (.calibrateServo id deviation) s = .next { s with outcomes := s.outcomes ++ [.err .servoId] } := by
  simp only [exec, execCalibrateServo, hid]
  exact hostOperation_of_deliver hrest rfl

/-- The gate after the diagnostics of a clamp: they stay, and nothing is sent. -/
theorem writeCommand_noting_closed {s : State} (address : Int) (data : List Int) (ds : List Diagnostic)
    (hrest : s.atRest = true) (hs : s.session = .closed) :
    writeCommand address data (s.noting ds) = .next { s with
      outcomes := s.outcomes ++ [.err .notOpen]
      diagnostics := s.diagnostics ++ ds } := by
  have hnoted : (s.noting ds).atRest = true := hrest
  rw [writeCommand_closed (s := s.noting ds) address data hs, State.deliver_of_atRest hnoted]
  rfl

/-- Settles O12: an illegal id is found before the gate, and with a legal one the gate is the next check. -/
theorem servoIdIsCheckedBeforeTheGate : Obligations.ServoIdIsCheckedBeforeTheGate := by
  intro s id a v hrest
  have hp := State.phase_of_atRest hrest
  simp only [List.forall_mem_cons, List.not_mem_nil, false_implies, implies_true, and_true]
  constructor
  · intro hid
    have hillegal : servoIdLegal id = false := by
      rw [← Bool.not_eq_true, servoIdLegal_iff]
      omega
    exact ⟨exec_servoMove_illegal a v hillegal hrest, exec_readServoAngle_illegal hillegal hrest,
      exec_calibrateServo_illegal v hillegal hrest⟩
  · intro h1 h18 hs
    have hid := (servoIdLegal_iff id).2 ⟨h1, h18⟩
    refine ⟨⟨_, (exec_servoMove a v hp hid).trans (writeCommand_noting_closed _ _ _ hrest hs)⟩, ⟨[], ?_⟩,
      ⟨_, (exec_calibrateServo v hp hid).trans (writeCommand_noting_closed _ _ _ hrest hs)⟩⟩
    rw [exec_readServoAngle_legal s hid, closedSessionGatesTransfers _ s rfl hrest hs, List.append_nil]

/-! ## What an error leaves (R155, R157) -/

/-- A request in front of a response's reads is one operation's transactions (R39). -/
theorem operationTransactions_tWrite (f : List Byte) (a : Answer Nat) (es : List Event) :
    operationTransactions (.tWrite f a :: es) = responseTransactions es := by
  unfold responseTransactions
  split <;> simp_all [operationTransactions]

theorem Received.transactions {form : PayloadForm} {s t : State} (h : Received form s t) :
    ∃ es, t.trace = s.trace ++ es ∧ responseTransactions es = true := by
  cases h with
  | first c => exact ⟨[.tRead 3 1 _], rfl, rfl⟩
  | second n o => exact ⟨[.tRead 3 1 _, .tRead (n.toNat - 3) 1 _], List.append_assoc _ _ _, rfl⟩

/-- What one operation puts on the trace (R37, R39, R196): RESPONSE at most two reads, every other one at most a request and two. -/
theorem Effect.transactions {i : Instr} {s t : State} (h : Effect i s t) (hp : s.phase = .idle) :
    ∃ es, t.trace = s.trace ++ es ∧ (i = .response → responseTransactions es = true) ∧
      (i ≠ .response → operationTransactions es = true) := by
  cases h with
  | silent => exact ⟨[], (List.append_nil _).symm, fun _ => rfl, fun _ => rfl⟩
  | openOk => exact ⟨[.tOpen _], rfl, nofun, fun _ => rfl⟩
  | openErr => exact ⟨[.tOpen _], rfl, nofun, fun _ => rfl⟩
  | close => exact ⟨[.tClose], rfl, nofun, fun _ => rfl⟩
  | wrote _ _ _ f _ _ hi => exact ⟨[.tWrite f _], rfl, (by rintro rfl; cases hi), fun _ => rfl⟩
  | unsent _ _ f _ _ _ hi => exact ⟨[.tWrite f _], rfl, (by rintro rfl; cases hi), fun _ => rfl⟩
  | requested _ _ _ f _ _ _ hi _ _ hr =>
    obtain ⟨es, htrace, hes⟩ := hr.transactions
    exact ⟨.tWrite f (s.answerWrite f) :: es, htrace.trans (List.append_assoc _ _ _), (by rintro rfl; cases hi),
      fun _ => (operationTransactions_tWrite f _ es).trans hes⟩
  | alone _ _ _ _ hr =>
    obtain ⟨es, htrace, hes⟩ := hr.transactions
    exact ⟨es, htrace, fun _ => hes, fun hne => absurd rfl hne⟩
  | goesOn _ _ hne => exact absurd hp hne

/-- An error leaves `session` as it was: open and close write it only with `Ok` (R12, R155). -/
theorem exec_error_session {i : Instr} {s t : State} {c : Cause} (h : exec i s = .next t)
    (herr : t.outcomes = s.outcomes ++ [.err c]) : t.session = s.session := by
  rcases exec_cases h with ⟨-, rfl | rfl⟩ | ⟨-, rfl⟩ | ⟨-, -, ds, -, es, k, m, o, rfl⟩
  · simp at herr
  · rfl
  · simp at herr
  · rfl

/-- Settles O37: `session` and the program are as before, the end of the operation discards what it held, and its transactions stay on
the trace. -/
theorem errorLeavesSessionAndIsFinal : Obligations.ErrorLeavesSessionAndIsFinal := by
  intro i s t c hp h herr
  obtain ⟨hrest, -⟩ := exec_delivers h
  obtain ⟨hprogram, -⟩ := operationsOnlyAppend i s t h
  obtain ⟨es, htrace, hresponse, hother⟩ := (exec_effect h).transactions hp
  refine ⟨exec_error_session h herr, hrest, hprogram, es, htrace, ?_⟩
  rw [Bool.or_eq_true]
  by_cases hi : i = .response
  · exact .inr (hresponse hi)
  · exact .inl (hother hi)

end Sys2Proof.Machine
end

section
/-! Reset and hazards (O20, O38, O43, O50, O51; R180 to R196): what a write-type and a codec operation put on the trace, the refusal of
an operation during another one, and the reset state. -/

namespace Sys2Proof.Machine

/-! ## The reset state (R23, R180) -/

/-- Settles O50: at rest with an empty program, the reset state waits, so a step leaves it as it is (O53). -/
theorem resetIsClosedAndIdle : Obligations.ResetIsClosedAndIdle := by
  obtain ⟨-, hwait, -⟩ := stepRunsTheIssuedOperation
  exact ⟨rfl, rfl, rfl, rfl, rfl, rfl, rfl, rfl, rfl, hwait State.reset rfl rfl⟩

/-- Settles O51: the empty trace has no unlawful event and leaves the session closed. -/
theorem resetMeetsTheInvariant : Obligations.ResetMeetsTheInvariant :=
  ⟨State.reset_atRest, List.forall_mem_nil _, rfl⟩

/-! ## An operation during another one (R184) -/

/-- Settles O43: the first thing that every host operation looks at is the phase. -/
theorem operationInProgressHasNoStep : Obligations.OperationInProgressHasNoStep :=
  fun _ _ hp hne => exec_busy hp hne

/-! ## The transactions of one operation (R187, R196) -/

/-- A write-type operation ends before its transaction, or makes the one write of its frame and ends (R103). -/
theorem Effect.writeType_cases {i : Instr} {s t : State} (h : Effect i s t) (hi : isWriteType i = true) :
    (∃ ds o, t = (s.noting ds).deliver o) ∨
      ∃ ds f o, IsFrame 0x01 f ∧ t = ((s.noting ds).afterWrite f).deliver o := by
  have hread : readForm i = none := readForm_of_isWriteType hi
  cases h with
  | silent _ _ ds o => exact .inl ⟨ds, o, rfl⟩
  | wrote _ _ ds f _ _ _ hf => exact .inr ⟨ds, f, _, hf, rfl⟩
  | openOk | openErr | close | alone | goesOn => cases hi
  | unsent _ _ _ _ _ _ hform => simp [hread] at hform
  | requested _ _ _ _ _ _ _ hform => simp [hread] at hform

/-- Settles O20: the one write is of a frame with INS 0x01, and neither way of ending takes a read answer. -/
theorem writeTypeOperationsNeverRead : Obligations.WriteTypeOperationsNeverRead := by
  intro i s t hi h
  rcases (exec_effect h).writeType_cases hi with ⟨ds, o, rfl⟩ | ⟨ds, f, o, hf, rfl⟩
  · exact ⟨rfl, [], (List.append_nil _).symm, by simp, List.forall_mem_nil _⟩
  · exact ⟨rfl, [.tWrite f _], rfl, le_rfl, List.forall_mem_singleton.2 ⟨f, _, rfl, hf.ins⟩⟩

/-- A codec operation transfers nothing: it is neither of write type nor of read type. -/
theorem not_transfer_of_isCodec {i : Instr} (hi : isCodec i = true) : isWriteType i = false ∧ readForm i = none := by
  cases i with
  | checksum | buildFrame | packUint16BE | unpackUint16BE => exact ⟨rfl, rfl⟩
  | _ => cases hi

/-- A codec operation makes no transaction. -/
theorem Effect.codec_trace {i : Instr} {s t : State} (h : Effect i s t) (hi : isCodec i = true) : t.trace = s.trace := by
  obtain ⟨hwrite, hread⟩ := not_transfer_of_isCodec hi
  cases h with
  | silent => rfl
  | openOk | openErr | close | alone | goesOn => cases hi
  | wrote _ _ _ _ _ _ htype => simp [hwrite] at htype
  | unsent _ _ _ _ _ _ hform => simp [hread] at hform
  | requested _ _ _ _ _ _ _ hform => simp [hread] at hform

/-- Settles O38: the shapes are those of `Effect.transactions`, and a codec operation leaves the trace as it was. -/
theorem transactionsOfOneOperation : Obligations.TransactionsOfOneOperation := by
  intro i s t hp h
  have heffect := exec_effect h
  obtain ⟨es, htrace, hresponse, hother⟩ := heffect.transactions hp
  refine ⟨es, htrace, fun hcodec => ?_, hresponse, hother⟩
  rw [heffect.codec_trace hcodec] at htrace
  exact List.append_right_eq_self.1 htrace.symm

end Sys2Proof.Machine
end
